-- ==== Sys2Proof/Word.lean ====
section
/-! DEFINITION. The word types of the part: a running-count value and a byte on the link.
Everything the manual numbers without wrapping (object numbers, durations, times of day) is a plain
`Nat` or `Int`; only the running count wraps (00 'Time', R19) and only link bytes are words (R182). -/

namespace Sys2Proof

/-- A value on the running count: deciseconds modulo 2^32 (R18, R19). -/
abbrev Count := BitVec 32

/-- One byte on the control link (R182). -/
abbrev Byte := BitVec 8

/-- A collection of numbered records: (number, record) pairs, numbers strictly rising. -/
abbrev Table (α : Type) := List (Nat × α)

end Sys2Proof
end

