-- ==== Sys2Proof/Syntax.lean ====
section
/-! DEFINITION. The commands of the part: one constructor of `Instr` per row of spec/opcode_table.json,
with the operands the rule of that row names. Requests carry a header (`Hdr`); timer events carry the
object whose timer it is. -/

namespace Sys2Proof

/-- An enumerated operand as its byte arrives (R182): one of the listed names, or a byte beyond the list,
which the owner refuses with RANGE. -/
inductive Enum (α : Type) where
  | val (a : α)
  | outside (byte : Nat)
  deriving DecidableEq, Repr

/-- The request kinds, in the order of their ranges (R189). -/
inductive ReqKind where
  | defineStation | defineStop | defineLink | defineSection | defineZone | defineMerge | defineClass | startService | stopService | restart | setParam | readLine
  | setTime | setTrim | adjustTime | readTime
  | loadTrip | cancelTrip | retimeTrip | eraseTimetable | readTrip
  | arrival | departure | breakerFeedback | feedMeasure | proveResult | detection
  | trainEnter | assignTrip | trainLeave | readTrains | setDwell | readRegulation
  | holdTrain | releaseTrain | holdPlatform | releasePlatform | readGate
  | energise | isolate | isolateOnClear | earth | unearth | proveNow | readSection | readZones
  | setTripInput | setDetectionKind | setEscalation | raiseIncident | ackIncident | clearIncident | testDetection | readIncidents
  | setTemplate | setAnnouncePlan | setScheduled | announce | cancelAnnounce | readAnnounce
  | setRights | reloadRights | readRights | clearAttention | readStatus | resync
  deriving DecidableEq, Repr

/-- The header of a request's frame (R182) and whether its payload has the form its kind needs (R184, check 2). -/
structure Hdr where
  tag : Nat
  desk : Nat
  formed : Bool
  deriving DecidableEq, Repr

/-- Direction of travel a platform serves (R3). -/
inductive Direction where
  | up | down
  deriving DecidableEq, Repr

/-- Announcement priority, highest first (R158). -/
inductive Priority where
  | emergency | disruption | service | routine
  deriving DecidableEq, Repr

/-- Incident severity, gravest first (R136, R142). -/
inductive Severity where
  | emergency | major | minor
  deriving DecidableEq, Repr

/-- What an incident imposes on its targets, strongest first (R149). -/
inductive Action where
  | deEnergise | hold | restrict | none
  deriving DecidableEq, Repr

/-- How an incident's action is lifted (R136, R142). -/
inductive Mode where
  | latched | perCycle
  deriving DecidableEq, Repr

/-- How a detection kind is handled (R138). -/
inductive Handling where
  | direct | counted
  deriving DecidableEq, Repr

/-- How a stop point becomes a set of target sections (R138). -/
inductive Scope where
  | stopSection | station
  deriving DecidableEq, Repr

/-- A breaker position as reported (R121). -/
inductive Position where
  | opened | closed
  deriving DecidableEq, Repr

/-- Outcome of an insulation proving (R126). -/
inductive ProveOutcome where
  | ok | low
  deriving DecidableEq, Repr

/-- Whether a detector reports the beginning or the end (R139). -/
inductive DetectionReport where
  | active | ended
  deriving DecidableEq, Repr

/-- Whether a scheduled entry fires once or again and again (R170). -/
inductive SchedMode where
  | once | recurring
  deriving DecidableEq, Repr

/-- A level of desk rights, in rising order (R174). -/
inductive Level where
  | none | monitor | operate | full
  deriving DecidableEq, Repr

/-- The kinds of incident source (R142, R166). -/
inductive SourceKind where
  | trip | detection | escalation | desk | sectionFault | feedLost | provingLow | provingTimeout
  | integrity | unreleasedDeparture
  deriving DecidableEq, Repr

/-- A definition's fields or its removal (R9, R159, R166). -/
inductive Definition (α : Type) where
  | fields (a : α)
  | removal
  deriving DecidableEq, Repr

/-- A number or ANY (R152, R166, R170). -/
inductive OrAny where
  | num (n : Nat)
  | any
  deriving DecidableEq, Repr

/-- The count of an announcement's reminders (R158, R164). -/
inductive Remaining where
  | count (n : Nat)
  | untilClosed
  deriving DecidableEq, Repr

/-- Fields of DEFINE_STATION (R2). -/
structure StationFields where
  area : Nat
  lead : Nat
  deriving DecidableEq, Repr

/-- Fields of DEFINE_STOP (R3). -/
structure StopFields where
  station : Nat
  direction : Enum Direction
  sect : Nat
  minDwell : Nat
  maxDwell : Nat
  headway : Nat
  profile : Nat
  nextLink : Option Nat
  deriving DecidableEq, Repr

/-- Fields of DEFINE_LINK (R4). -/
structure LinkFields where
  fromStop : Nat
  toStop : Nat
  sect : Nat
  run0 : Nat
  run1 : Nat
  run2 : Nat
  run3 : Nat
  deriving DecidableEq, Repr

/-- Fields of DEFINE_SECTION (R5). -/
structure SectionFields where
  zone : Nat
  area : Nat
  deadTime : Nat
  cycleTime : Nat
  settleTime : Nat
  energiseTimeout : Nat
  isolateTimeout : Nat
  provingInterval : Nat
  provingDuration : Nat
  provingTimeout : Nat
  deriving DecidableEq, Repr

/-- Fields of DEFINE_ZONE (R6); `compareOnly` is the byte carried, 1 for set and 0 for clear (R190, log 24). -/
structure ZoneFields where
  area : Nat
  normalCap : Nat
  tieCap : Nat
  vtrip : Nat
  ht : Nat
  hc : Nat
  vdead : Nat
  compareOnly : Nat
  startWindow : Nat
  releaseTimeout : Nat
  starvation : Nat
  deriving DecidableEq, Repr

/-- Fields of DEFINE_MERGE (R7). -/
structure MergeFields where
  stop : Nat
  linkA : Nat
  linkB : Nat
  separation : Nat
  deriving DecidableEq, Repr

/-- One stop entry as LOAD_TRIP carries it (R33, R35): the coded content of an entry. -/
structure EntryFields where
  stop : Nat
  sa : Option Nat
  sd : Option Nat
  dmin : Nat
  dmax : Nat
  profile : Nat
  deriving DecidableEq, Repr

/-- The whole trip LOAD_TRIP carries (R35). -/
structure TripFields where
  number : Nat
  dayMask : List Nat
  next : Option Nat
  entries : List EntryFields
  deriving DecidableEq, Repr

/-- One replacement entry of RETIME_TRIP (R37). -/
structure Replacement where
  stop : Nat
  sa : Option Nat
  sd : Option Nat
  dmin : Nat
  dmax : Nat
  deriving DecidableEq, Repr

/-- What happens to the stored bits of one entry, outside the part's control (R44, R45; log 5): one bit
in error, or two, with the stop point the entry then reads as. -/
inductive Disturbance where
  | single
  | double (stopRead : Nat)
  deriving DecidableEq, Repr

/-- A disturbance of one stop entry of the store (log 5). -/
structure StoreFlip where
  trip : Nat
  index : Nat
  kind : Disturbance
  deriving DecidableEq, Repr

/-- The five values of SET_TRIP_INPUT (R136). -/
structure TripInputFields where
  qualTime : Nat
  mode : Enum Mode
  targets : List Nat
  action : Enum Action
  severity : Enum Severity
  deriving DecidableEq, Repr

/-- The five values of SET_DETECTION_KIND (R138). -/
structure DetectionKindFields where
  handling : Enum Handling
  severity : Enum Severity
  action : Enum Action
  mode : Enum Mode
  scope : Enum Scope
  deriving DecidableEq, Repr

/-- The six values of SET_ESCALATION (R152). -/
structure EscalationFields where
  kind : Nat
  filter : OrAny
  period : Nat
  severity : Enum Severity
  action : Enum Action
  mode : Enum Mode
  deriving DecidableEq, Repr

/-- The location of a RAISE_INCIDENT (R141). -/
inductive RaiseLocation where
  | stop (n : Nat)
  | sect (n : Nat)
  deriving DecidableEq, Repr

/-- Fields of SET_TEMPLATE (R159). -/
structure TemplateFields where
  length : Nat
  params : Nat
  deriving DecidableEq, Repr

/-- Fields of SET_ANNOUNCE_PLAN (R166). -/
structure PlanFields where
  source : Enum SourceKind
  number : OrAny
  minSeverity : Enum Severity
  opening : Nat
  reminder : Option Nat
  interval : Nat
  resumed : Option Nat
  deriving DecidableEq, Repr

/-- Fields of SET_SCHEDULED (R170), every field but fired; `enabled` is the byte carried, 1 for set. -/
structure ScheduledFields where
  enabled : Nat
  dayMask : List Nat
  hour : OrAny
  minute : OrAny
  second : OrAny
  mode : Enum SchedMode
  stations : List Nat
  template : Nat
  priority : Enum Priority
  deriving DecidableEq, Repr

/-- The reminder part of an ANNOUNCE (R164). -/
structure ReminderFields where
  template : Nat
  interval : Nat
  count : Remaining
  deriving DecidableEq, Repr

/-- Why a received frame is discarded (R183), the byte gap apart. -/
inductive LinkErrorCause where
  | lowStopBit | excessLength | badCheck | deskAbove7 | noBuffer
  deriving DecidableEq, Repr

/-- The commands of the part, one constructor per row of spec/opcode_table.json. -/
inductive Instr where
  | powerOn
  | resetAsserted
  | resetReleased
  | linkReady
  | tick (flips : List StoreFlip)
  | scrub
  | perCycleLift
  | tripInputActive (n : Nat)
  | tripInputInactive (n : Nat)
  | tripQualification (n : Nat)
  | byteGapTimeout
  | linkErrorDiscard (cause : LinkErrorCause)
  | kindRefusal (tag desk kind : Nat)
  | transmitNextFrame
  | defineStation (h : Hdr) (n : Nat) (d : Definition StationFields)
  | defineStop (h : Hdr) (n : Nat) (d : Definition StopFields)
  | defineLink (h : Hdr) (n : Nat) (d : Definition LinkFields)
  | defineSection (h : Hdr) (n : Nat) (d : Definition SectionFields)
  | defineZone (h : Hdr) (n : Nat) (d : Definition ZoneFields)
  | defineMerge (h : Hdr) (n : Nat) (d : Definition MergeFields)
  | defineClass (h : Hdr) (n : Nat) (d : Definition Nat)
  | startService (h : Hdr)
  | stopService (h : Hdr)
  | restart (h : Hdr)
  | setParam (h : Hdr) (code : Nat) (obj : Option Nat) (v : Int)
  | serviceOrigin (h : Hdr) (v : Int)
  | wearThreshold (h : Hdr) (v : Int)
  | assignGrace (h : Hdr) (v : Int)
  | regWeight (h : Hdr) (v : Int)
  | regGain (h : Hdr) (v : Int)
  | earlyBand (h : Hdr) (v : Int)
  | lateBand (h : Hdr) (v : Int)
  | profileStep (h : Hdr) (v : Int)
  | approachTemplate (h : Hdr) (v : Int)
  | autoClear (h : Hdr) (v : Int)
  | readLine (h : Hdr) (kind : Nat) (obj : Option Nat)
  | setTime (h : Hdr) (timeOfDay day : Nat)
  | setTrim (h : Hdr) (trim : Int)
  | adjustTime (h : Hdr) (offset : Int)
  | readTime (h : Hdr)
  | loadTrip (h : Hdr) (t : TripFields)
  | cancelTrip (h : Hdr) (n : Nat)
  | retimeTrip (h : Hdr) (n start : Nat) (reps : List Replacement)
  | eraseTimetable (h : Hdr)
  | readTripByNumber (h : Hdr) (n : Nat)
  | readTripNext (h : Hdr) (n : Nat)
  | readTripStore (h : Hdr)
  | arrival (h : Hdr) (train stop : Nat) (stamp : Option Nat)
  | departure (h : Hdr) (train stop : Nat) (stamp : Option Nat)
  | breakerFeedback (h : Hdr) (sect : Nat) (pos : Enum Position)
  | feedMeasure (h : Hdr) (zone vp vt : Nat)
  | proveResult (h : Hdr) (sect : Nat) (r : Enum ProveOutcome)
  | detection (h : Hdr) (kind stop : Nat) (r : Enum DetectionReport)
  | trainEnter (h : Hdr) (train cls stop : Nat) (trip : Option Nat)
  | assignTrip (h : Hdr) (train trip : Nat)
  | trainLeave (h : Hdr) (train : Nat)
  | readTrains (h : Hdr) (train : Option Nat)
  | setDwell (h : Hdr) (train dwell : Nat)
  | readRegulationParameters (h : Hdr)
  | readRegulationStop (h : Hdr) (stop : Nat)
  | readRegulationMerge (h : Hdr) (merge : Nat)
  | dwellExpiry (train : Nat)
  | mergeGapExpiry (train : Nat)
  | releaseTimeout (train : Nat)
  | startWindowEnd (zone train : Nat)
  | holdTrain (h : Hdr) (train : Nat)
  | releaseTrain (h : Hdr) (train : Nat)
  | holdPlatform (h : Hdr) (stop : Nat)
  | releasePlatform (h : Hdr) (stop : Nat)
  | readGateZone (h : Hdr) (zone : Nat)
  | readGatePlatforms (h : Hdr)
  | energise (h : Hdr) (sect : Nat)
  | isolate (h : Hdr) (sect : Nat)
  | isolateOnClear (h : Hdr) (sect : Nat)
  | earth (h : Hdr) (sect : Nat)
  | unearth (h : Hdr) (sect : Nat)
  | proveNow (h : Hdr) (sect : Nat)
  | readSection (h : Hdr) (sect : Nat)
  | readZones (h : Hdr)
  | deferredEnergiseStart (sect : Nat)
  | energiseTimeout (sect : Nat)
  | isolateTimeout (sect : Nat)
  | provingTimeout (sect : Nat)
  | provingIntervalExpiry (sect : Nat)
  | settleWatchExpiry (sect : Nat)
  | setTripInput (h : Hdr) (n : Nat) (f : TripInputFields)
  | setDetectionKind (h : Hdr) (kind : Nat) (f : DetectionKindFields)
  | setEscalation (h : Hdr) (channel : Nat) (f : EscalationFields)
  | raiseIncident (h : Hdr) (severity : Enum Severity) (action : Enum Action) (targets : List Nat) (loc : RaiseLocation)
  | ackIncident (h : Hdr) (n : Nat)
  | clearIncident (h : Hdr) (n : Nat)
  | testDetection (h : Hdr) (channel stop : Nat)
  | readIncidentsTable (h : Hdr)
  | readIncidentsOne (h : Hdr) (n : Nat)
  | readIncidentsSources (h : Hdr)
  | readIncidentsChannels (h : Hdr)
  | setTemplate (h : Hdr) (n : Nat) (d : Definition TemplateFields)
  | setAnnouncePlan (h : Hdr) (n : Nat) (d : Definition PlanFields)
  | setScheduled (h : Hdr) (n : Nat) (f : ScheduledFields)
  | announce (h : Hdr) (stations : List Nat) (template : Nat) (priority : Enum Priority) (params : List Nat) (reminder : Option ReminderFields)
  | cancelAnnounce (h : Hdr) (stations : List Nat) (template : Nat)
  | readAnnounceStation (h : Hdr) (station : Nat)
  | readAnnounceTemplates (h : Hdr)
  | readAnnouncePlan (h : Hdr)
  | readAnnounceScheduled (h : Hdr)
  | playCompletion (station : Nat)
  | notBeforeReached (station : Nat) (seq : Count)
  | queueEntryExpiry (station : Nat) (seq : Count)
  | setRights (h : Hdr) (desk : Nat) (pairs : List (Nat × Enum Level))
  | reloadRights (h : Hdr)
  | readRights (h : Hdr)
  | clearAttention (h : Hdr) (categories : List Nat)
  | readStatus (h : Hdr)
  | resync (h : Hdr)
  | frameStart
  | frameSent
  | supplyLoss
  deriving DecidableEq, Repr

end Sys2Proof
end

