-- ==== Sys2Proof/Config.lean ====
section
/-! DEFINITION. What the part fixes (00 'Capacities' and the cycle counts of the rules) and the one value the manual
leaves open. -/

namespace Sys2Proof.Config

/-- The nominal profile of a stop entry that RETIME_TRIP makes readable again: R37 says RETIME_TRIP does not change the
profile and R45 says it is absent while the entry is unreadable, so the manual states no value. A free value
(log 7), drawn by a counter of State. -/
opaque repairedProfile : Nat → Fin 4

/-- Capacities of 00. -/
def maxStations : Nat := 32
def maxStops : Nat := 64
def maxLinks : Nat := 96
def maxSections : Nat := 24
def maxZones : Nat := 8
def maxMerges : Nat := 4
def maxClasses : Nat := 4
def maxAreas : Nat := 16
def maxDesks : Nat := 8
def maxTrips : Nat := 2048
def maxEntries : Nat := 32768
def maxTrains : Nat := 48
def maxOwed : Nat := 8
def maxIncidents : Nat := 32
def maxQueue : Nat := 8
def maxOutstanding : Nat := 4
def maxOutbound : Nat := 96
def maxLinkErrors : Nat := 65535
def maxPayload : Nat := 1536
/-- Result bytes in one ACCEPT frame: the payload less its part number and last indication (R185). -/
def partBytes : Nat := 1534

/-- Deciseconds of a day and of an hour (00 'Time'). -/
def dayLength : Nat := 864000
def hourLength : Nat := 36000

/-- Reference cycles: tick length without trim (R19), start-up wait (R192), byte gap (R183), one millisecond of
qualification (R135), and one byte on the line at 1,000,000 bit/s (R182, log 19). -/
def tickCycles : Nat := 1000000
def startupCycles : Nat := 1000000
def gapCycles : Nat := 50000
def msCycles : Nat := 10000
def byteCycles : Nat := 100

end Sys2Proof.Config
end

