-- ==== Sys2Proof/Machine/State.lean ====
section
/-! DEFINITION. The state of the part as plain data, block by block (00 'Functional blocks'), and its value after power-on.
Every piece of state a rule names is a field; INVENTORY.md lists them with their rules and reset values. -/

namespace Sys2Proof.Machine

/-! ## Faults and refusals of the model -/

/-- Why the machine stops with a fault. The part has none: what it does not carry out it answers with a REFUSE reply
(R185), so this type has no constructor. -/
inductive Fault where
  deriving DecidableEq, Repr

/-- Why the model gives no outcome. -/
inductive Refusal where
  /-- Raised by an arm of `exec` whose command has no meaning yet; safe, since nothing can be proved of a next state. -/
  | notModelled (mnemonic : String)
  deriving DecidableEq, Repr

/-! ## Line Clock (R18) -/

/-- UNSET until the first SET_TIME, then RUNNING (R21). -/
inductive ClockState where
  | unset | running
  deriving DecidableEq, Repr

/-- The clock record (R18). -/
structure Clock where
  state : ClockState
  timeOfDay : Nat
  dayOfWeek : Nat
  trim : Int
  slew : Int
  runningCount : Count
  ticked : Bool
  cycleCount : Nat
  serviceOrigin : Nat
  serviceDay : Nat
  deriving DecidableEq, Repr

/-- Power-on values of R31. -/
def Clock.init : Clock :=
  { state := .unset, timeOfDay := 0, dayOfWeek := 0, trim := 0, slew := 0, runningCount := 0, ticked := false,
    cycleCount := 0, serviceOrigin := 3, serviceDay := 0 }

/-! ## Line Description (R1 to R7) -/

/-- The line state (R1). -/
inductive LineState where
  | setup | service
  deriving DecidableEq, Repr

/-- A defined stop point (R3). -/
structure Stop where
  station : Nat
  direction : Direction
  sect : Nat
  minDwell : Nat
  maxDwell : Nat
  headway : Nat
  profile : Nat
  nextLink : Option Nat
  deriving DecidableEq, Repr

/-- A defined zone (R6). -/
structure Zone where
  area : Nat
  normalCap : Nat
  tieCap : Nat
  vtrip : Nat
  ht : Nat
  hc : Nat
  vdead : Nat
  compareOnly : Bool
  startWindow : Nat
  releaseTimeout : Nat
  starvation : Nat
  deriving DecidableEq, Repr

/-- The line description and the line state (R1 to R7). -/
structure Lds where
  lineState : LineState
  stations : Table StationFields
  stops : Table Stop
  links : Table LinkFields
  sections : Table SectionFields
  zones : Table Zone
  merges : Table MergeFields
  classes : Table Nat
  deriving DecidableEq, Repr

/-- Power-on and RESET values of R16. -/
def Lds.init : Lds :=
  { lineState := .setup, stations := [], stops := [], links := [], sections := [], zones := [], merges := [], classes := [] }

/-! ## Timetable Store (R32 to R34, R44 to R47) -/

/-- Where a trip stands on the service day (R32). -/
inductive RunState where
  | planned | running | done | cancelled
  deriving DecidableEq, Repr

/-- Status of a stop entry (R33). -/
inductive EntryStatus where
  | pending | called | skipped
  deriving DecidableEq, Repr

/-- The condition of an entry's stored bits under its check code (R44, R45): clean; one bit in error; two bits in error, with
the stop point the entry reads as; found unreadable. -/
inductive BitCondition where
  | clean
  | single
  | double (stopRead : Nat)
  | unreadable
  deriving DecidableEq, Repr

/-- A stop entry: its coded content, the condition of the stored bits, and its status (R33). -/
structure Entry where
  coded : EntryFields
  bits : BitCondition
  status : EntryStatus
  deriving DecidableEq, Repr

/-- A trip record (R32). -/
structure Trip where
  number : Nat
  dayMask : List Nat
  entries : List Entry
  next : Option Nat
  run : RunState
  damaged : Bool
  train : Option Nat
  rolled : Bool
  deriving DecidableEq, Repr

/-- The scrub position: an entry by its trip and index (R47). -/
structure ScrubPos where
  trip : Nat
  index : Nat
  deriving DecidableEq, Repr

/-- The timetable store; `trips` is in store order (R34). -/
structure Store where
  trips : List Trip
  corrected : Nat
  wear : Nat
  scrub : Option ScrubPos
  deriving DecidableEq, Repr

/-- Power-on and RESET values of R50. -/
def Store.init : Store := { trips := [], corrected := 0, wear := 16, scrub := none }

/-! ## Train Table (R51, R53) -/

/-- State of a train (R51). -/
inductive TrainState where
  | dwelling | held | released | running
  deriving DecidableEq, Repr

/-- Hold causes, in the order of R92. -/
inductive Cause where
  | dwell | deskTrain | deskPlatform | noRoute | sectionNotLive | proving | isolationPending | incidentHold | mergeGap
  | awaitGrant
  deriving DecidableEq, Repr

/-- Where a train is (R51). -/
inductive Location where
  | stop (n : Nat)
  | link (n : Nat)
  | none
  deriving DecidableEq, Repr

/-- The trip a train runs and its stop index (R51). -/
structure TripRef where
  trip : Nat
  index : Nat
  deriving DecidableEq, Repr

/-- The grant field of a train record (R51); `startedAt` is present once the grant is STARTED. -/
structure GrantRef where
  zone : Nat
  units : Nat
  givenAt : Count
  startedAt : Option Count
  deriving DecidableEq, Repr

/-- A predicted arrival: running count and service time (R51). -/
structure Prediction where
  count : Count
  svc : Option Nat
  deriving DecidableEq, Repr

/-- A train record (R51), with the desk-hold indication and the MERGE_GAP expiry of R91. Its number is its key. -/
structure Train where
  cls : Nat
  state : TrainState
  trip : Option TripRef
  loc : Location
  arrSvc : Option Nat
  arrCount : Count
  dwell : Nat
  dwellExpiry : Count
  causes : List Cause
  grant : Option GrantRef
  lateness : Option Int
  profile : Nat
  predicted : Option Prediction
  nextLink : Option Nat
  deskHold : Bool
  mergeGap : Option Count
  deriving DecidableEq, Repr

/-- The train table, with the occupancy count of each defined section (R53). -/
structure Trt where
  trains : Table Train
  occupancy : Table Nat
  grace : Nat
  deriving DecidableEq, Repr

/-- Power-on and RESET values of R70. -/
def Trt.init : Trt := { trains := [], occupancy := [], grace := 600 }

/-! ## Regulator (R71, R72) -/

/-- The regulation parameters (R72). -/
structure RegParams where
  weight : Nat
  gain : Nat
  early : Nat
  late : Nat
  step : Nat
  deriving DecidableEq, Repr

/-- Headway memory of a stop point (R71). -/
structure Headway where
  last : Option Count
  sprev : Option Nat
  train : Option Nat
  deriving DecidableEq, Repr

/-- Whether the dwell was brought to a bound (R79). -/
inductive Clamp where
  | unclamped | low | high
  deriving DecidableEq, Repr

/-- The last regulation of a stop point (R80); `hpHa` and `error` are absent together. -/
structure LastReg where
  train : Nat
  arrCount : Count
  dp : Nat
  lateness : Option Int
  hp : Option Int
  ha : Option Int
  error : Option Int
  weight : Nat
  c : Int
  c1 : Int
  c2 : Int
  dwell : Nat
  clamp : Clamp
  residual : Int
  shift : Int
  profile : Nat
  deriving DecidableEq, Repr

/-- The inbound link of a committed arrival (R71). -/
inductive Side where
  | a | b
  deriving DecidableEq, Repr

/-- A committed merge arrival (R71). -/
structure Commit where
  count : Count
  side : Side
  deriving DecidableEq, Repr

/-- A merge record (R71). -/
structure MergeRec where
  stop : Nat
  linkA : Nat
  linkB : Nat
  separation : Nat
  committed : Option Commit
  deriving DecidableEq, Repr

/-- The Regulator's state (R71). -/
structure Reg where
  params : RegParams
  headways : Table Headway
  lastRegs : Table LastReg
  merges : Table MergeRec
  deriving DecidableEq, Repr

/-- Power-on and RESET values of R72 and R90. -/
def Reg.init : Reg :=
  { params := { weight := 8, gain := 16, early := 0, late := 0, step := 300 }, headways := [], lastRegs := [], merges := [] }

/-! ## Departure Gate (R91, R98) -/

/-- A request in a start list (R98). -/
structure Request where
  train : Nat
  stop : Nat
  units : Nat
  time : Count
  skipped : Nat
  deriving DecidableEq, Repr

/-- A grant in a grant list: GRANTED while `startedAt` is absent, STARTED once it is present (R98). -/
structure Grant where
  train : Nat
  stop : Nat
  units : Nat
  givenAt : Count
  startedAt : Option Count
  expiry : Count
  deriving DecidableEq, Repr

/-- A zone's start arbiter (R98). -/
structure Arbiter where
  capacity : Nat
  inUse : Nat
  lastStop : Option Nat
  starts : List Request
  grants : List Grant
  deriving DecidableEq, Repr

/-- The gate's own state (R91); `platformHolds` lists the stop points held, rising. -/
structure Gate where
  arbiters : Table Arbiter
  platformHolds : List Nat
  deriving DecidableEq, Repr

/-- Power-on and RESET values of R110. -/
def Gate.init : Gate := { arbiters := [], platformHolds := [] }

/-! ## Traction Controller (R111, R129) -/

/-- State of a section (R111). -/
inductive SectState where
  | dead | energising | live | proving | isolating | earthed
  deriving DecidableEq, Repr

/-- A breaker order (R111, R191). -/
inductive BreakerOrder where
  | opening | close
  deriving DecidableEq, Repr

/-- An order accepted but not yet carried out (R111). -/
inductive PendingOrder where
  | energiseDeferred (start : Count)
  | isolateOnClear
  deriving DecidableEq, Repr

/-- A section record (R111); `settleArmed` is the model's own (log 21). -/
structure SectRec where
  state : SectState
  feedback : Position
  order : Option BreakerOrder
  pending : Option PendingOrder
  lastIsolated : Option Count
  lastEnergiseStart : Option Count
  lastEnergiseDone : Option Count
  lastProvingTimeout : Option Count
  owed : Nat
  interval : Option Count
  timeout : Option Count
  provingOrdered : Option Nat
  settle : Option Count
  settleArmed : Bool
  deriving DecidableEq, Repr

/-- The record a first definition creates (R5). -/
def SectRec.init : SectRec :=
  { state := .dead, feedback := .opened, order := none, pending := none, lastIsolated := none, lastEnergiseStart := none,
    lastEnergiseDone := none, lastProvingTimeout := none, owed := 0, interval := none, timeout := none, provingOrdered := none,
    settle := none, settleArmed := false }

/-- Feed state of a zone (R129). -/
inductive FeedState where
  | normal | tieFed | unfed
  deriving DecidableEq, Repr

/-- A clamped measurement of a zone's feeds (R129). -/
structure Measurement where
  vp : Nat
  vt : Nat
  deriving DecidableEq, Repr

/-- A zone record (R129). -/
structure ZoneRec where
  feed : FeedState
  capacity : Nat
  measured : Option Measurement
  deriving DecidableEq, Repr

/-- The Traction Controller's state. -/
structure Trc where
  sections : Table SectRec
  zones : Table ZoneRec
  deriving DecidableEq, Repr

/-- Power-on and RESET values of R133. -/
def Trc.init : Trc := { sections := [], zones := [] }

/-! ## Incident Manager (R134) -/

/-- Qualification state of a trip input (R135). -/
inductive Qual where
  | idle | qualifying | active
  deriving DecidableEq, Repr

/-- The settings a trip input captures when it qualifies (R136). -/
structure Captured where
  mode : Mode
  targets : List Nat
  action : Action
  severity : Severity
  deriving DecidableEq, Repr

/-- A trip-input record (R134 to R137). `qualCycles` counts the reference cycles of a qualification and `qualLimit` is the
number it needs, fixed when the input went active (R135). -/
structure TripInput where
  qualTime : Nat
  set : Captured
  qual : Qual
  qualCycles : Nat
  qualLimit : Nat
  inForce : Bool
  captured : Option Captured
  entry : Option Nat
  deriving DecidableEq, Repr

/-- Power-on and RESET values of R136 and R157. -/
def TripInput.init : TripInput :=
  { qualTime := 10, set := { mode := .latched, targets := [], action := .deEnergise, severity := .emergency }, qual := .idle,
    qualCycles := 0, qualLimit := 0, inForce := false, captured := none, entry := none }

/-- Settings of a detection kind (R138). -/
structure DetectionKind where
  handling : Handling
  severity : Severity
  action : Action
  mode : Mode
  scope : Scope
  deriving DecidableEq, Repr

/-- Power-on values of R138. -/
def DetectionKind.init : DetectionKind :=
  { handling := .direct, severity := .minor, action := .none, mode := .perCycle, scope := .stopSection }

/-- An escalation channel (R152). -/
structure Channel where
  kind : Nat
  filter : OrAny
  period : Nat
  count : Nat
  severity : Severity
  action : Action
  mode : Mode
  openIncident : Option Nat
  lastStop : Option Nat
  deriving DecidableEq, Repr

/-- Power-on values of R152. -/
def Channel.init : Channel :=
  { kind := 0, filter := .any, period := 0, count := 0, severity := .minor, action := .none, mode := .perCycle,
    openIncident := none, lastStop := none }

/-- What raised an incident: kind and number (R142). -/
structure Source where
  kind : SourceKind
  number : Nat
  deriving DecidableEq, Repr

/-- Where an incident is (R142). -/
inductive IncidentLoc where
  | stop (n : Nat)
  | sect (n : Nat)
  | zone (n : Nat)
  | trip (n : Nat)
  | none
  deriving DecidableEq, Repr

/-- State of an incident (R142). -/
inductive IncidentState where
  | active | acked | lifted
  deriving DecidableEq, Repr

/-- Who acknowledged an incident and when (R142). -/
structure Ack where
  desk : Nat
  count : Count
  deriving DecidableEq, Repr

/-- An incident record (R142). Its number is its key. -/
structure Incident where
  source : Source
  loc : IncidentLoc
  severity : Severity
  action : Action
  targets : List Nat
  mode : Mode
  condition : Bool
  state : IncidentState
  ack : Option Ack
  raised : Count
  recurrences : Nat
  deriving DecidableEq, Repr

/-- The Incident Manager's state (R134). -/
structure Inm where
  inputs : Vector TripInput 16
  kinds : Vector DetectionKind 16
  channels : Vector Channel 16
  incidents : Table Incident
  nextNumber : Nat
  tableFull : Bool
  effective : Table Action
  lineStop : Bool
  deriving DecidableEq, Repr

/-- Power-on and RESET values of R157. -/
def Inm.init : Inm :=
  { inputs := Vector.replicate 16 TripInput.init, kinds := Vector.replicate 16 DetectionKind.init,
    channels := Vector.replicate 16 Channel.init, incidents := [], nextNumber := 1, tableFull := false, effective := [],
    lineStop := false }

/-! ## Announcement Controller (R158) -/

/-- What queued an entry (R158). -/
inductive Origin where
  | desk | scheduled | approach | incident
  deriving DecidableEq, Repr

/-- The reminder part of a queue entry (R158). -/
structure Reminder where
  template : Nat
  interval : Nat
  remaining : Remaining
  deriving DecidableEq, Repr

/-- A queue entry (R158); `notBeforeTaken` is the model's own (log 21). -/
structure QueueEntry where
  template : Nat
  priority : Priority
  params : List Nat
  origin : Origin
  desk : Option Nat
  series : Option Nat
  incident : Option Nat
  train : Option Nat
  notBefore : Option Count
  expiry : Option Count
  reminder : Option Reminder
  seq : Count
  notBeforeTaken : Bool
  deriving DecidableEq, Repr

/-- What a PLAYING channel holds (R158). -/
structure Playing where
  entry : QueueEntry
  start : Count
  ending : Count
  finishing : Bool
  deriving DecidableEq, Repr

/-- A station's channel and queue; the channel is SILENT while `playing` is absent (R158). -/
structure StationChannel where
  playing : Option Playing
  queue : List QueueEntry
  nextSeq : Count
  deriving DecidableEq, Repr

/-- A channel as START_SERVICE and RESTART leave it (R173). -/
def StationChannel.init : StationChannel := { playing := none, queue := [], nextSeq := 1 }

/-- A set entry of the incident announcement map (R166). -/
structure Plan where
  source : SourceKind
  number : OrAny
  minSeverity : Severity
  opening : Nat
  reminder : Option Nat
  interval : Nat
  resumed : Option Nat
  deriving DecidableEq, Repr

/-- A record of the announced-incident list (R167). -/
structure Announced where
  incident : Nat
  stations : List Nat
  resumed : Option Nat
  params : List Nat
  deriving DecidableEq, Repr

/-- A scheduled entry (R170). -/
structure Scheduled where
  enabled : Bool
  dayMask : List Nat
  hour : OrAny
  minute : OrAny
  second : OrAny
  mode : SchedMode
  stations : List Nat
  template : Nat
  priority : Priority
  fired : Bool
  deriving DecidableEq, Repr

/-- Power-on value of a scheduled entry (R173). -/
def Scheduled.init : Scheduled :=
  { enabled := false, dayMask := [], hour := .any, minute := .any, second := .any, mode := .once, stations := [], template := 0,
    priority := .routine, fired := false }

/-- The Announcement Controller's state (R158). -/
structure Anc where
  templates : Table TemplateFields
  plans : Table Plan
  approach : Nat
  scheduled : Vector Scheduled 32
  channels : Table StationChannel
  announced : List Announced
  deriving DecidableEq, Repr

/-- Power-on and RESET values of R173. -/
def Anc.init : Anc :=
  { templates := [], plans := [], approach := 0, scheduled := Vector.replicate 32 Scheduled.init, channels := [], announced := [] }

/-! ## Desk Rights Table (R174, R177) -/

/-- Levels by desk and area (R174). -/
abbrev RightsTable := Vector (Vector Level 16) 8

/-- Desk 0 FULL in all areas, the other desks NONE (R181). -/
def RightsTable.init : RightsTable :=
  (Vector.replicate 8 (Vector.replicate 16 Level.none)).setIfInBounds 0 (Vector.replicate 16 Level.full)

/-- The last-refusal record (R177); area `none` is ANY. -/
structure RefusalRecord where
  desk : Nat
  kind : ReqKind
  area : Option Nat
  level : Level
  count : Count
  time : Option (Nat × Nat)
  deriving DecidableEq, Repr

/-- The Desk Rights Table. -/
structure Drt where
  inForce : RightsTable
  pending : RightsTable
  lastRefusal : Option RefusalRecord
  deriving DecidableEq, Repr

/-- Power-on and RESET values of R181. -/
def Drt.init : Drt := { inForce := RightsTable.init, pending := RightsTable.init, lastRefusal := none }

/-! ## Attention Unit (R178) -/

/-- The attention categories, highest priority first (R178). -/
inductive Category where
  | emergencyIncident | majorIncident | linkOverrun | feedChange | minorIncident | storeWear | clockUnset | rightsRefusal
  | linkError
  deriving DecidableEq, Repr

/-- The Attention Unit's state (R178); `pending` is in rising priority number, none held twice. -/
structure Atu where
  pending : List Category
  autoClear : Bool
  announced : Option Category
  deriving DecidableEq, Repr

/-! ## Control Link Interface (R182 to R192) -/

/-- The nine refusal codes (R185). -/
inductive Code where
  | format | kind | range | state | rights | full | unknown | conflict | topology
  deriving DecidableEq, Repr

/-- The detail of a refusal (R185): seven optional items. `object` is a kind and an optional number; `rights` is the level
needed and the area lacking, `none` for ANY. -/
structure Detail where
  field : Option Nat
  entry : Option Nat
  object : Option (Nat × Option Nat)
  reason : Option Nat
  rights : Option (Level × Option Nat)
  count : Option Nat
  stations : Option (List Nat)
  deriving DecidableEq, Repr

/-- One number of a payload: how many bytes it takes and its value, two's complement where negative (R182). -/
structure Item where
  width : Nat
  value : Int
  deriving DecidableEq, Repr

/-- The reply to a request (R185). -/
inductive Reply where
  | accept (result : List Item)
  | refuse (code : Code) (detail : Detail)
  deriving DecidableEq, Repr

/-- An order to the host (R187, R191). -/
inductive Order where
  | dwell (train stop ds : Nat)
  | depart (train stop profile : Nat)
  | departCancel (train stop : Nat)
  | breaker (sect : Nat) (position : BreakerOrder)
  | prove (sect duration : Nat)
  | play (station template : Nat) (priority : Priority) (params : List Nat)
  | cut (station : Nat)
  deriving DecidableEq, Repr

/-- The content of an ATTENTION frame (R180): the highest pending category, `none` for NONE, and the pending set. -/
structure AttentionFrame where
  highest : Option Category
  pending : List Category
  deriving DecidableEq, Repr

/-- An outstanding request (R184): its tag, its reply, and the next part of the reply to send (R185). -/
structure Outstanding where
  tag : Nat
  reply : Reply
  part : Nat
  deriving DecidableEq, Repr

/-- A frame on TXD (R186): a part of a reply, an ATTENTION frame or an order. -/
inductive TxFrame where
  | reply (tag : Nat) (reply : Reply) (part : Nat)
  | attention (f : AttentionFrame)
  | order (o : Order)
  deriving DecidableEq, Repr

/-- The receiver (R183). -/
inductive Receiver where
  | hunting | inFrame
  deriving DecidableEq, Repr

/-- A byte received: its value, and whether its stop bit is low (R182, R183). -/
structure RxByte where
  value : Byte
  low : Bool
  deriving DecidableEq, Repr

/-- What comes to the receiver: a byte, with the reference cycles until the end of its stop bit, those of the bytes before it not counted;
or the mark that the gap after the byte before it has exceeded 5 ms, which a discard puts behind the bytes to hunt through again (R183,
log 8). -/
inductive RxItem where
  | byte (cycles : Nat) (b : RxByte)
  | gap
  deriving DecidableEq, Repr

/-- The Control Link Interface's state. `frame` holds the bytes received of the frame being received, its sync byte left out
(R183). `waitCycles`, `gapCycles` and `sentCycles` count reference cycles of the start-up wait
(R192), of the gap in the frame being received (R183) and of the frame being sent (R182, log 19). -/
structure Link where
  ready : Bool
  waitCycles : Nat
  receiver : Receiver
  gapCycles : Nat
  frame : List RxByte
  errors : Nat
  outstanding : List Outstanding
  outbound : List Order
  slot : Option AttentionFrame
  sending : Option TxFrame
  sentCycles : Nat
  deriving DecidableEq, Repr

/-- Power-on and RESET values of R192, with the start-up frame carrying `pending` (R181). -/
def Link.init (highest : Option Category) (pending : List Category) : Link :=
  { ready := false, waitCycles := 0, receiver := .hunting, gapCycles := 0, frame := [], errors := 0, outstanding := [],
    outbound := [], slot := some { highest := highest, pending := pending }, sending := none, sentCycles := 0 }

/-! ## The whole part -/

/-- The state of the part. `rxd` holds the bytes still to come on RXD, an input (R193, log 8); `scrubDue`, `liftDue`, `freeCount` and
`pending` are the model's own (log 20, log 7, log 1). -/
structure State where
  powered : Bool
  resetPin : Bool
  tripPins : Vector Bool 16
  rxd : List RxItem
  clock : Clock
  lds : Lds
  store : Store
  trt : Trt
  reg : Reg
  gate : Gate
  trc : Trc
  inm : Inm
  anc : Anc
  drt : Drt
  atu : Atu
  link : Link
  scrubDue : Bool
  liftDue : Bool
  freeCount : Nat
  pending : List Instr
  deriving DecidableEq, Repr

/-- The part after power-on (R16, R31, R50, R70, R90, R110, R133, R157, R173, R181, R192), no input pin asserted and no
command waiting. -/
def State.reset : State :=
  { powered := true, resetPin := false, tripPins := Vector.replicate 16 false, rxd := [], clock := Clock.init, lds := Lds.init,
    store := Store.init, trt := Trt.init, reg := Reg.init, gate := Gate.init, trc := Trc.init, inm := Inm.init,
    anc := Anc.init, drt := Drt.init,
    atu := { pending := [.clockUnset], autoClear := false, announced := some .clockUnset },
    link := Link.init (some .clockUnset) [.clockUnset], scrubDue := false, liftDue := false, freeCount := 0, pending := [] }

end Sys2Proof.Machine
end

