-- ==== Sys2Proof/Machine/Ops.lean ====
section
/-! DEFINITION. Shared operations with no block of their own: numbered tables, sets, times, and the readers of State that several
blocks use. -/

namespace Sys2Proof.Machine

/-! ## Tables -/

/-- The record numbered `k`, if there is one. -/
def tget {α : Type} : Table α → Nat → Option α
  | [], _ => none
  | (a, v) :: r, k => if a = k then some v else tget r k

/-- The table with `v` as record `k`, in its place by number. -/
def tput {α : Type} : Table α → Nat → α → Table α
  | [], k, v => [(k, v)]
  | (a, w) :: r, k, v =>
    if k < a then (k, v) :: (a, w) :: r
    else if k = a then (k, v) :: r
    else (a, w) :: tput r k v

/-- The table without record `k`. -/
def tdel {α : Type} (t : Table α) (k : Nat) : Table α := t.filter (fun p => p.1 ≠ k)

/-- The table with record `k`, where present, changed by `f`. -/
def tmod {α : Type} (t : Table α) (k : Nat) (f : α → α) : Table α := t.map (fun p => if p.1 = k then (p.1, f p.2) else p)

/-- Every record changed by `f`, numbers kept. -/
def tmap {α β : Type} (t : Table α) (f : Nat → α → β) : Table β := t.map (fun p => (p.1, f p.1 p.2))

/-- The numbers of the records. -/
def tkeys {α : Type} (t : Table α) : List Nat := t.map Prod.fst

/-- Whether a record `k` is present. -/
def thas {α : Type} (t : Table α) (k : Nat) : Bool := (tget t k).isSome

/-- The canonical form of a table: numbers strictly rising. -/
def twf {α : Type} (t : Table α) : Bool := decide (t.Pairwise (fun p q => p.1 < q.1))

/-! ## Sets and sorting -/

/-- The set of the numbers below `n` that stand in `l`, rising. -/
def normSet (n : Nat) (l : List Nat) : List Nat := (List.range n).filter (fun i => l.contains i)

/-- Insertion before the first element `a` is to stand before. -/
def insertBy {α : Type} (le : α → α → Bool) (a : α) : List α → List α
  | [] => [a]
  | b :: r => if le a b then a :: b :: r else b :: insertBy le a r

/-- Insertion sort, stable. -/
def sortBy {α : Type} (le : α → α → Bool) : List α → List α
  | [] => []
  | a :: r => insertBy le a (sortBy le r)

/-- The first index at which `p` holds. -/
def indexWhere {α : Type} (p : α → Bool) (l : List α) : Option Nat := l.findIdx? p

/-- `l` with element `i`, where present, changed by `f`. -/
def lmod {α : Type} (l : List α) (i : Nat) (f : α → α) : List α := l.modify i f

/-- Element `i` of a bank changed by `f`. -/
def vmod {α : Type} {n : Nat} (v : Vector α n) (i : Nat) (f : α → α) : Vector α n := v.mapIdx (fun j a => if j = i then f a else a)

/-! ## Time -/

/-- The running-count value `n` deciseconds after `c` (R18, modulo 2^32). -/
def later (c : Count) (n : Nat) : Count := c + BitVec.ofNat 32 n

/-- A timer with this expiry has expired: the difference modulo 2^32 is not negative (R19). -/
def reached (now expiry : Count) : Bool := decide (0 ≤ (now - expiry).toInt)

/-- An optional moment is present and reached. -/
def reachedOpt (now : Count) : Option Count → Bool
  | some e => reached now e
  | none => false

/-- The signed difference of two service times, in -432,000 to 431,999 (00 'Time'). -/
def svcDiff (a b : Int) : Int := (a - b + 432000) % 864000 - 432000

/-- A value clamped into a range (00 'Arithmetic'). -/
def clampInt (lo hi v : Int) : Int := if v < lo then lo else if hi < v then hi else v

/-- A value clamped into a range of naturals. -/
def clampNat (lo hi v : Nat) : Nat := if v < lo then lo else if hi < v then hi else v

/-- A count that stops at its maximum (00 'Arithmetic'). -/
def satSucc (limit n : Nat) : Nat := if n < limit then n + 1 else n

/-! ## Readers of State -/

/-- The running count. -/
def State.now (s : State) : Count := s.clock.runningCount

/-- The line is in SERVICE. -/
def State.inService (s : State) : Bool := s.lds.lineState = .service

/-- The clock is RUNNING. -/
def State.clockRunning (s : State) : Bool := s.clock.state = .running

/-- Service time: line time of day from the service origin (R26). -/
def Clock.serviceTime (c : Clock) : Nat :=
  ((c.timeOfDay : Int) - (c.serviceOrigin : Int) * 36000).emod 864000 |>.toNat

/-- Service time, read now (R26). -/
def State.svc (s : State) : Nat := s.clock.serviceTime

/-- The part acts: it has supply and RESET is not asserted (R193). -/
def State.live (s : State) : Bool := s.powered && !s.resetPin

/-- The link from stop point `p` to stop point `q`: the lowest-numbered defined one (R4, R12). -/
def linkBetween (s : State) (p q : Nat) : Option Nat :=
  (s.lds.links.find? (fun l => l.2.fromStop = p ∧ l.2.toStop = q)).map Prod.fst

/-- The section of a link. -/
def linkSect (s : State) (l : Nat) : Option Nat := (tget s.lds.links l).map LinkFields.sect

/-- The section of a stop point. -/
def stopSect (s : State) (p : Nat) : Option Nat := (tget s.lds.stops p).map Stop.sect

/-- The zone of a section. -/
def sectZone (s : State) (x : Nat) : Option Nat := (tget s.lds.sections x).map SectionFields.zone

/-- The run time of a link at a profile (R4). -/
def runTime (l : LinkFields) (profile : Nat) : Nat :=
  match profile with
  | 0 => l.run0
  | 1 => l.run1
  | 2 => l.run2
  | _ => l.run3

/-- The effective action of a section, NONE where it holds none (R149). -/
def effectiveOf (s : State) (x : Nat) : Action := (tget s.inm.effective x).getD .none

/-- RESTRICT is the effective action of the section of link `l` (R82). -/
def restricted (s : State) (l : Nat) : Bool :=
  match linkSect s l with
  | some x => effectiveOf s x = .restrict
  | none => false

/-- The occupancy count of a section (R53). -/
def occupancyOf (s : State) (x : Nat) : Nat := (tget s.trt.occupancy x).getD 0

/-- A train is standing: DWELLING, HELD or RELEASED (R51). -/
def Train.standing (t : Train) : Bool := t.state ≠ .running

/-- The stop point where a train stands. -/
def Train.atStop (t : Train) : Option Nat :=
  match t.loc with
  | .stop n => some n
  | _ => none

/-- The section in which a train is counted (R53). -/
def locSect (s : State) : Location → Option Nat
  | .stop n => stopSect s n
  | .link n => linkSect s n
  | .none => none

/-- The section of a train's next link. -/
def nextSect (s : State) (t : Train) : Option Nat := t.nextLink.bind (linkSect s)

end Sys2Proof.Machine
end

