-- ==== Sys2Proof/Machine/Flags.lean ====
section
/-! DEFINITION. The Attention Unit: the pending categories, the attention slot, and the two output lines (R178 to R180, R193). -/

namespace Sys2Proof.Machine

/-- The nine categories, highest priority first (R178). -/
def Category.all : List Category :=
  [.emergencyIncident, .majorIncident, .linkOverrun, .feedChange, .minorIncident, .storeWear, .clockUnset, .rightsRefusal,
    .linkError]

/-- The priority number of a category (R178). -/
def Category.number : Category → Nat
  | .emergencyIncident => 0
  | .majorIncident => 1
  | .linkOverrun => 2
  | .feedChange => 3
  | .minorIncident => 4
  | .storeWear => 5
  | .clockUnset => 6
  | .rightsRefusal => 7
  | .linkError => 8

/-- The pending set with one category put in or taken out. -/
def withCategory (c : Category) (on : Bool) (l : List Category) : List Category :=
  Category.all.filter (fun d => if d = c then on else l.contains d)

/-- The attention slot and the announced highest after a change of the pending set to `p` (R180): a frame is placed when the
highest pending differs from the announced highest; otherwise a waiting frame's set is brought up to date. -/
def setPending (p : List Category) (s : State) : State :=
  if p.head? = s.atu.announced then
    { s with atu := { s.atu with pending := p }, link := { s.link with slot := s.link.slot.map (fun f => { f with pending := p }) } }
  else
    { s with
      atu := { s.atu with pending := p, announced := p.head? }
      link := { s.link with slot := some { highest := p.head?, pending := p } } }

/-- A category is put into or taken out of the pending set; a report that changes nothing leaves all as it is (R178). -/
def setCategory (c : Category) (on : Bool) (s : State) : State :=
  if s.atu.pending.contains c = on then s else setPending (withCategory c on s.atu.pending) s

/-- A report of a latched category (R178). -/
def report (c : Category) (s : State) : State := setCategory c true s

/-- The ATTN output: asserted while the pending set is not empty (R180). -/
def State.attn (s : State) : Bool := s.powered && !s.atu.pending.isEmpty

/-- The level LINE STOP presents: the INM's with supply, asserted without (R151, R193). -/
def State.lineStopLevel (s : State) : Bool := !s.powered || s.inm.lineStop

end Sys2Proof.Machine
end

