-- ==== Sys2Proof/Machine/Cli.lean ====
section
/-! DEFINITION. The Control Link Interface: the outbound queue, link errors and the receive buffers (R183, R184, R187). -/

namespace Sys2Proof.Machine

/-- An order is queued; with 96 frames waiting it is discarded and LINK_OVERRUN is reported (R187). -/
def queueOrder (o : Order) (s : State) : State :=
  if s.link.outbound.length < Config.maxOutbound then
    { s with link := { s.link with outbound := s.link.outbound ++ [o] } }
  else report .linkOverrun s

/-- A received frame is discarded: the link error count rises, LINK_ERROR is reported, and the receiver hunts again from the byte after
the frame's sync byte, the bytes received of it coming to it once more (R183, log 8). -/
def discardFrame (s : State) : State :=
  report .linkError
    { s with
      rxd := s.link.frame.map (.byte 0) ++ s.rxd
      link := { s.link with
        errors := satSucc Config.maxLinkErrors s.link.errors, receiver := .hunting, gapCycles := 0, frame := [] } }

/-- The link takes frames: it is ready, with supply and without RESET (R192). -/
def State.linkUp (s : State) : Bool := s.live && s.link.ready

/-- A reply joins the receive buffers behind those outstanding (R184, R185). -/
def putReply (tag : Nat) (r : Reply) (s : State) : State :=
  { s with link := { s.link with outstanding := s.link.outstanding ++ [{ tag := tag, reply := r, part := 0 }] } }

/-! ## Details of refusals (R185) -/

/-- A detail that names nothing. -/
def Detail.empty : Detail :=
  { field := none, entry := none, object := none, reason := none, rights := none, count := none, stations := none }

/-- A refusal that names nothing: its rule names nothing beside the code (DESIGN CHOICE, log 11). -/
def refuse (c : Code) : Reply := .refuse c Detail.empty

/-- A refusal with RANGE naming a field by its position (R185), where the rule says only RANGE too (DESIGN CHOICE, log 11). -/
def refuseField (f : Nat) : Reply := .refuse .range { Detail.empty with field := some f }

/-- A refusal naming an entry index of a trip and a field of the entry. -/
def refuseEntry (c : Code) (i f : Nat) : Reply := .refuse c { Detail.empty with entry := some i, field := some f }

/-- A refusal with a count (R13, R39, R120). -/
def refuseCount (c : Code) (n : Nat) : Reply := .refuse c { Detail.empty with count := some n }

/-- A refusal with a reason (R11, R35). -/
def refuseReason (c : Code) (r : Nat) : Reply := .refuse c { Detail.empty with reason := some r }

/-- A refusal naming an object by kind and number (R190). -/
def refuseObject (c : Code) (kind n : Nat) : Reply := .refuse c { Detail.empty with object := some (kind, some n) }

end Sys2Proof.Machine
end

