-- ==== Sys2Proof/Machine/Operands.lean ====
section
/-! DEFINITION. The range checks on the operands of requests: each gives the position, among the fields of the request counted
from 0 in the order they are carried (R185, log 11), of the first field out of range, or none. -/

namespace Sys2Proof.Machine

/-- The position of the first check that fails. Where several fields of one request are out of range the first in the order carried is
named: R9 states it for definitions, and elsewhere it is a DESIGN CHOICE (log 11). -/
def firstBad (l : List Bool) : Option Nat := l.findIdx? (fun b => !b)

/-- The enumerated byte is one of the listed values. -/
def Enum.known {α : Type} : Enum α → Bool
  | .val _ => true
  | .outside _ => false

/-- The listed value, or `d` for a byte outside the list (never used after the check). -/
def Enum.get {α : Type} (d : α) : Enum α → α
  | .val a => a
  | .outside _ => d

/-- `lo ≤ v ≤ hi`. -/
def within (lo hi v : Nat) : Bool := lo ≤ v && v ≤ hi

/-- An optional number in a range. -/
def withinOpt (lo hi : Nat) (o : Option Nat) : Bool := o.all (within lo hi)

/-- A number in a range, or ANY. -/
def withinAny (lo hi : Nat) : OrAny → Bool
  | .num n => within lo hi n
  | .any => true

/-- Every item of a set is below `n`. -/
def setBelow (n : Nat) (l : List Nat) : Bool := l.all (· < n)

/-- DEFINE_STATION (R2). -/
def badStation (n : Nat) (f : StationFields) : Option Nat := firstBad [n < 32, within 0 15 f.area, within 0 1800 f.lead]

/-- DEFINE_STOP (R3). -/
def badStop (n : Nat) (f : StopFields) : Option Nat :=
  firstBad [n < 64, f.station < 32, Enum.known f.direction, f.sect < 24, within 0 6000 f.minDwell,
    within f.minDwell 6000 f.maxDwell, within 300 6000 f.headway, within 0 3 f.profile, withinOpt 0 95 f.nextLink]

/-- The stop point the fields define. -/
def stopOf (f : StopFields) : Stop :=
  { station := f.station, direction := Enum.get .up f.direction, sect := f.sect, minDwell := f.minDwell, maxDwell := f.maxDwell,
    headway := f.headway, profile := f.profile, nextLink := f.nextLink }

/-- DEFINE_LINK (R4). Falling run times name the later (DEDUCED, log 11). -/
def badLink (n : Nat) (f : LinkFields) : Option Nat :=
  firstBad [n < 96, f.fromStop < 64, f.toStop < 64 && f.toStop ≠ f.fromStop, f.sect < 24, within 50 12000 f.run0,
    within 50 12000 f.run1 && f.run0 ≤ f.run1, within 50 12000 f.run2 && f.run1 ≤ f.run2,
    within 50 12000 f.run3 && f.run2 ≤ f.run3]

/-- A proving interval is 0, or 600 to 72,000 (R5). -/
def okInterval (v : Nat) : Bool := v = 0 || within 600 72000 v

/-- DEFINE_SECTION (R5). -/
def badSection (n : Nat) (f : SectionFields) : Option Nat :=
  firstBad [n < 24, f.zone < 8, within 0 15 f.area, within 100 6000 f.deadTime, within 300 36000 f.cycleTime,
    within 0 600 f.settleTime, within 10 600 f.energiseTimeout, within 10 600 f.isolateTimeout, okInterval f.provingInterval,
    within 50 1200 f.provingDuration, within f.provingDuration 3000 f.provingTimeout]

/-- DEFINE_ZONE (R6). -/
def badZone (n : Nat) (f : ZoneFields) : Option Nat :=
  firstBad [n < 8, within 0 15 f.area, within 0 255 f.normalCap, within 0 255 f.tieCap, within 0 2000 f.vtrip, within 0 2000 f.ht,
    within 0 2000 f.hc, within 0 2000 f.vdead, f.compareOnly ≤ 1, within 50 900 f.startWindow, within 50 1200 f.releaseTimeout,
    within 1 15 f.starvation]

/-- The zone the fields define. -/
def zoneOf (f : ZoneFields) : Zone :=
  { area := f.area, normalCap := f.normalCap, tieCap := f.tieCap, vtrip := f.vtrip, ht := f.ht, hc := f.hc, vdead := f.vdead,
    compareOnly := f.compareOnly = 1, startWindow := f.startWindow, releaseTimeout := f.releaseTimeout, starvation := f.starvation }

/-- DEFINE_MERGE (R7). -/
def badMerge (n : Nat) (f : MergeFields) : Option Nat :=
  firstBad [n < 4, f.stop < 64, f.linkA < 96, f.linkB < 96, within 0 1200 f.separation]

/-- DEFINE_CLASS (R7). -/
def badClass (n : Nat) (demand : Nat) : Option Nat := firstBad [n < 4, within 1 63 demand]

/-- SET_TRIP_INPUT (R136). -/
def badTripInput (n : Nat) (f : TripInputFields) : Option Nat :=
  firstBad [n < 16, within 0 255 f.qualTime, Enum.known f.mode, setBelow 24 f.targets, Enum.known f.action, Enum.known f.severity]

/-- SET_DETECTION_KIND (R138). -/
def badDetectionKind (k : Nat) (f : DetectionKindFields) : Option Nat :=
  firstBad [k < 16, Enum.known f.handling, Enum.known f.severity, Enum.known f.action, Enum.known f.mode, Enum.known f.scope]

/-- SET_ESCALATION (R152). -/
def badEscalation (c : Nat) (f : EscalationFields) : Option Nat :=
  firstBad [c < 16, f.kind < 16, withinAny 0 63 f.filter, within 0 7 f.period, Enum.known f.severity, Enum.known f.action,
    Enum.known f.mode]

/-- SET_TEMPLATE (R159). -/
def badTemplate (n : Nat) (f : TemplateFields) : Option Nat :=
  firstBad [n < 256, within 10 1200 f.length, within 0 4 f.params]

/-- SET_ANNOUNCE_PLAN (R166). -/
def badPlan (n : Nat) (f : PlanFields) : Option Nat :=
  firstBad [n < 32, Enum.known f.source, withinAny 0 65535 f.number, Enum.known f.minSeverity, within 0 255 f.opening,
    withinOpt 0 255 f.reminder, within 50 6000 f.interval, withinOpt 0 255 f.resumed]

/-- SET_SCHEDULED (R170). Hour, minute and second all ANY names the second: a DESIGN CHOICE (log 11). -/
def badScheduled (n : Nat) (f : ScheduledFields) : Option Nat :=
  firstBad [n < 32, f.enabled ≤ 1, setBelow 7 f.dayMask, withinAny 0 23 f.hour, withinAny 0 59 f.minute,
    withinAny 0 59 f.second && !(f.hour = .any && f.minute = .any && f.second = .any), Enum.known f.mode, setBelow 32 f.stations,
    within 0 255 f.template, Enum.known f.priority]

/-- A reminder's count: 1 to 15 or UNTIL_CLOSED (R164). -/
def okCount : Remaining → Bool
  | .count n => within 1 15 n
  | .untilClosed => true

/-- The reminder part of an ANNOUNCE (R164). -/
def okReminder (r : ReminderFields) : Bool := within 0 255 r.template && within 50 6000 r.interval && okCount r.count

/-- ANNOUNCE, check 1 (R164). More than four parameters are RANGE (DESIGN CHOICE, log 9). The reminder part counts as one field, 4, for its template, interval and count: a DESIGN CHOICE (log 11). -/
def badAnnounce (stations : List Nat) (template : Nat) (priority : Enum Priority) (params : List Nat)
    (reminder : Option ReminderFields) : Option Nat :=
  firstBad [!stations.isEmpty && setBelow 32 stations, within 0 255 template, Enum.known priority,
    params.length ≤ 4 && setBelow 65536 params, reminder.all okReminder]

/-- SET_RIGHTS (R174): the desk is 1 to 7 and the list has 1 to 16 pairs of an area and a level, no area twice. Whatever fails in the list
names the list: a DESIGN CHOICE (log 11), as is RANGE for a list of another length (log 9). -/
def badRights (desk : Nat) (pairs : List (Nat × Enum Level)) : Option Nat :=
  firstBad [within 1 7 desk,
    within 1 16 pairs.length && pairs.all (fun p => p.1 < 16 && Enum.known p.2) && (pairs.map Prod.fst).Nodup]

end Sys2Proof.Machine
end

