-- ==== Sys2Proof/Machine/Wire.lean ====
section
/-! DEFINITION. Frames on the link: the check, the numbers of enumerated values, how replies, orders and ATTENTION frames are laid
out as bytes, and how a received frame is judged (R182, R183, R185, R189, R191). -/

namespace Sys2Proof.Machine

/-! ## Items of a payload (R182) -/

def u8 (n : Nat) : Item := { width := 1, value := n }
def u16 (n : Nat) : Item := { width := 2, value := n }
def u32 (n : Nat) : Item := { width := 4, value := n }
def i8 (v : Int) : Item := { width := 1, value := v }
def i16 (v : Int) : Item := { width := 2, value := v }
def i32 (v : Int) : Item := { width := 4, value := v }

/-- A running-count value. -/
def count32 (c : Count) : Item := u32 c.toNat

/-- A set or clear value, or an indication: 1 for set (R190). -/
def flag (b : Bool) : Item := u8 (if b then 1 else 0)

/-- An optional field: its presence byte and, where present, its items (R182). -/
def optional {α : Type} (f : α → List Item) : Option α → List Item
  | none => [u8 0]
  | some a => u8 1 :: f a

/-- A list of varying length: its count and its items (R182). -/
def listed {α : Type} (f : α → List Item) (l : List α) : List Item := u8 l.length :: l.flatMap f

/-- A set of numbered items as a mask of `b` bytes, item 0 in the least significant bit (R182). -/
def maskItem (b : Nat) (l : List Nat) : Item := { width := b, value := ((l.map (fun i => 2 ^ i)).sum : Nat) }

/-- A number or ANY: selector 0 and the number, or selector 1 (R182). -/
def orAny (f : Nat → Item) : OrAny → List Item
  | .num n => [u8 0, f n]
  | .any => [u8 1]

/-- The bytes of an item, most significant first, two's complement (R182). -/
def Item.bytes (i : Item) : List Byte :=
  (List.range i.width).reverse.map (fun k => BitVec.ofInt 8 (i.value / (256 ^ k : Int)))

/-- The bytes of a payload. -/
def itemBytes (l : List Item) : List Byte := l.flatMap Item.bytes

/-! ## Numbers of enumerated values, from 0 in the order their rule lists them (R182) -/

def Direction.code : Direction → Nat
  | .up => 0
  | .down => 1

def Priority.code : Priority → Nat
  | .emergency => 0
  | .disruption => 1
  | .service => 2
  | .routine => 3

def Severity.code : Severity → Nat
  | .emergency => 0
  | .major => 1
  | .minor => 2

def Action.code : Action → Nat
  | .deEnergise => 0
  | .hold => 1
  | .restrict => 2
  | .none => 3

def Mode.code : Mode → Nat
  | .latched => 0
  | .perCycle => 1

def Handling.code : Handling → Nat
  | .direct => 0
  | .counted => 1

def Scope.code : Scope → Nat
  | .stopSection => 0
  | .station => 1

def Position.code : Position → Nat
  | .opened => 0
  | .closed => 1

def SchedMode.code : SchedMode → Nat
  | .once => 0
  | .recurring => 1

def Level.code : Level → Nat
  | .none => 0
  | .monitor => 1
  | .operate => 2
  | .full => 3

def SourceKind.code : SourceKind → Nat
  | .trip => 0
  | .detection => 1
  | .escalation => 2
  | .desk => 3
  | .sectionFault => 4
  | .feedLost => 5
  | .provingLow => 6
  | .provingTimeout => 7
  | .integrity => 8
  | .unreleasedDeparture => 9

def ClockState.code : ClockState → Nat
  | .unset => 0
  | .running => 1

def LineState.code : LineState → Nat
  | .setup => 0
  | .service => 1

def RunState.code : RunState → Nat
  | .planned => 0
  | .running => 1
  | .done => 2
  | .cancelled => 3

def EntryStatus.code : EntryStatus → Nat
  | .pending => 0
  | .called => 1
  | .skipped => 2

def TrainState.code : TrainState → Nat
  | .dwelling => 0
  | .held => 1
  | .released => 2
  | .running => 3

def Cause.code : Cause → Nat
  | .dwell => 0
  | .deskTrain => 1
  | .deskPlatform => 2
  | .noRoute => 3
  | .sectionNotLive => 4
  | .proving => 5
  | .isolationPending => 6
  | .incidentHold => 7
  | .mergeGap => 8
  | .awaitGrant => 9

/-- The byte of a clamp indication (R79); the numbering is the model's (log 10). -/
def Clamp.code : Clamp → Nat
  | .unclamped => 0
  | .low => 1
  | .high => 2

def Side.code : Side → Nat
  | .a => 0
  | .b => 1

def SectState.code : SectState → Nat
  | .dead => 0
  | .energising => 1
  | .live => 2
  | .proving => 3
  | .isolating => 4
  | .earthed => 5

def BreakerOrder.code : BreakerOrder → Nat
  | .opening => 0
  | .close => 1

def FeedState.code : FeedState → Nat
  | .normal => 0
  | .tieFed => 1
  | .unfed => 2

def Qual.code : Qual → Nat
  | .idle => 0
  | .qualifying => 1
  | .active => 2

def IncidentState.code : IncidentState → Nat
  | .active => 0
  | .acked => 1
  | .lifted => 2

def Origin.code : Origin → Nat
  | .desk => 0
  | .scheduled => 1
  | .approach => 2
  | .incident => 3

/-- The refusal codes (R185). -/
def Code.code : Code → Nat
  | .format => 1
  | .kind => 2
  | .range => 3
  | .state => 4
  | .rights => 5
  | .full => 6
  | .unknown => 7
  | .conflict => 8
  | .topology => 9

/-- The kind bytes of the requests (R189). -/
def ReqKind.code : ReqKind → Nat
  | .defineStation => 0x01
  | .defineStop => 0x02
  | .defineLink => 0x03
  | .defineSection => 0x04
  | .defineZone => 0x05
  | .defineMerge => 0x06
  | .defineClass => 0x07
  | .startService => 0x08
  | .stopService => 0x09
  | .restart => 0x0A
  | .setParam => 0x0B
  | .readLine => 0x0C
  | .setTime => 0x10
  | .setTrim => 0x11
  | .adjustTime => 0x12
  | .readTime => 0x13
  | .loadTrip => 0x18
  | .cancelTrip => 0x19
  | .retimeTrip => 0x1A
  | .eraseTimetable => 0x1B
  | .readTrip => 0x1C
  | .arrival => 0x20
  | .departure => 0x21
  | .breakerFeedback => 0x22
  | .feedMeasure => 0x23
  | .proveResult => 0x24
  | .detection => 0x25
  | .trainEnter => 0x28
  | .assignTrip => 0x29
  | .trainLeave => 0x2A
  | .readTrains => 0x2B
  | .setDwell => 0x2C
  | .readRegulation => 0x2D
  | .holdTrain => 0x30
  | .releaseTrain => 0x31
  | .holdPlatform => 0x32
  | .releasePlatform => 0x33
  | .readGate => 0x34
  | .energise => 0x38
  | .isolate => 0x39
  | .isolateOnClear => 0x3A
  | .earth => 0x3B
  | .unearth => 0x3C
  | .proveNow => 0x3D
  | .readSection => 0x3E
  | .readZones => 0x3F
  | .setTripInput => 0x40
  | .setDetectionKind => 0x41
  | .setEscalation => 0x42
  | .raiseIncident => 0x43
  | .ackIncident => 0x44
  | .clearIncident => 0x45
  | .testDetection => 0x46
  | .readIncidents => 0x47
  | .setTemplate => 0x48
  | .setAnnouncePlan => 0x49
  | .setScheduled => 0x4A
  | .announce => 0x4B
  | .cancelAnnounce => 0x4C
  | .readAnnounce => 0x4D
  | .setRights => 0x50
  | .reloadRights => 0x51
  | .readRights => 0x52
  | .clearAttention => 0x53
  | .readStatus => 0x54
  | .resync => 0x55

/-- The bytes that are kinds of requests (R189). -/
def isRequestKind (k : Nat) : Bool :=
  (0x01 ≤ k && k ≤ 0x0C) || (0x10 ≤ k && k ≤ 0x13) || (0x18 ≤ k && k ≤ 0x1C) || (0x20 ≤ k && k ≤ 0x25)
    || (0x28 ≤ k && k ≤ 0x2D) || (0x30 ≤ k && k ≤ 0x34) || (0x38 ≤ k && k ≤ 0x4D) || (0x50 ≤ k && k ≤ 0x55)

/-! ## Replies (R185) -/

/-- The items of a refusal's detail (R185). -/
def Detail.items (d : Detail) : List Item :=
  optional (fun n => [u8 n]) d.field ++ optional (fun n => [u8 n]) d.entry
    ++ optional (fun o => u8 o.1 :: optional (fun n => [u8 n]) o.2) d.object
    ++ optional (fun n => [u8 n]) d.reason
    ++ optional (fun r => [u8 (Level.code r.1), u8 (r.2.getD 255)]) d.rights
    ++ optional (fun n => [u16 n]) d.count
    ++ optional (fun l => [maskItem 4 l]) d.stations

/-- How many frames a reply takes (R185). -/
def replyParts : Reply → Nat
  | .accept r => max 1 (((itemBytes r).length + Config.partBytes - 1) / Config.partBytes)
  | .refuse _ _ => 1

/-- The payload of part `i` of a reply (R185). -/
def replyPayload (r : Reply) (i : Nat) : List Byte :=
  match r with
  | .accept items =>
    itemBytes [u8 i, flag (i + 1 = replyParts r)]
      ++ ((itemBytes items).drop (i * Config.partBytes)).take Config.partBytes
  | .refuse c d => itemBytes (u8 c.code :: d.items)

/-! ## Frames (R182, R191) -/

/-- One bit of the CRC-16 with polynomial x^16 + x^12 + x^5 + 1 (R182). -/
def crcBit (c : BitVec 16) : BitVec 16 := if c.msb then (c <<< 1) ^^^ 0x1021#16 else c <<< 1

/-- One byte of the CRC-16. -/
def crcByte (c : BitVec 16) (b : Byte) : BitVec 16 :=
  crcBit (crcBit (crcBit (crcBit (crcBit (crcBit (crcBit (crcBit (c ^^^ (b.zeroExtend 16 <<< 8)))))))))

/-- The check of a frame over its length, kind, tag, desk and payload (R182). -/
def crc16 (l : List Byte) : BitVec 16 := l.foldl crcByte 0xFFFF#16

/-- A frame of the form of R182. -/
def frameBytes (kind tag desk : Nat) (payload : List Byte) : List Byte :=
  let body := itemBytes [u16 payload.length, u8 kind, u8 tag, u8 desk] ++ payload
  0x5A#8 :: body ++ itemBytes [u16 (crc16 body).toNat]

/-- The kind byte of an order (R189). -/
def Order.kind : Order → Nat
  | .dwell .. => 0x90
  | .depart .. => 0x91
  | .departCancel .. => 0x92
  | .breaker .. => 0x93
  | .prove .. => 0x94
  | .play .. => 0x95
  | .cut .. => 0x96

/-- The payload of an order (R191). -/
def Order.items : Order → List Item
  | .dwell t p d => [u16 t, u8 p, u16 d]
  | .depart t p f => [u16 t, u8 p, u8 f]
  | .departCancel t p => [u16 t, u8 p]
  | .breaker x o => [u8 x, u8 o.code]
  | .prove x d => [u8 x, u16 d]
  | .play st t p params => [u8 st, u8 t, u8 (Priority.code p)] ++ listed (fun v => [u16 v]) params
  | .cut st => [u8 st]

/-- The payload of an ATTENTION frame (R191). -/
def AttentionFrame.items (f : AttentionFrame) : List Item :=
  [u8 ((f.highest.map Category.number).getD 255), maskItem 2 (f.pending.map Category.number)]

/-- What TXD carries of a frame being sent (R182, R185, R191). -/
def TxFrame.bytes : TxFrame → List Byte
  | .reply tag r i =>
    frameBytes (match r with | .accept _ => 0x80 | .refuse _ _ => 0x81) tag 0xFF (replyPayload r i)
  | .attention f => frameBytes 0x88 0 0xFF (itemBytes f.items)
  | .order o => frameBytes o.kind 0 0xFF (itemBytes o.items)

/-! ## Judging a received frame (R182, R183) -/

/-- A list of bytes, most significant first, as a number. -/
def bytesNat (l : List Byte) : Nat := l.foldl (fun n b => 256 * n + b.toNat) 0

/-- What the receiver makes of the bytes after a sync byte, none with a low stop bit and no gap too long: it still waits, it
discards the frame for a cause, or the frame is well formed, with its kind, tag, desk and payload (R183). -/
inductive FrameVerdict where
  | incomplete
  | discard (cause : LinkErrorCause)
  | wellFormed (kind tag desk : Nat) (payload : List Byte)
  deriving DecidableEq, Repr

/-- The verdict on the bytes of a frame received so far, its sync byte left out (R182, R183). -/
def judgeFrame (l : List Byte) : FrameVerdict :=
  if l.length < 2 then .incomplete
  else
    let n := bytesNat (l.take 2)
    if Config.maxPayload < n then .discard .excessLength
    else if l.length < n + 7 then .incomplete
    else if bytesNat ((l.drop (n + 5)).take 2) ≠ (crc16 (l.take (n + 5))).toNat then .discard .badCheck
    else
      let desk := bytesNat ((l.drop 4).take 1)
      if 7 < desk then .discard .deskAbove7
      else .wellFormed (bytesNat ((l.drop 2).take 1)) (bytesNat ((l.drop 3).take 1)) desk ((l.drop 5).take n)

end Sys2Proof.Machine
end

