-- ==== Sys2Proof/Machine/AnnounceOps.lean ====
section
/-! DEFINITION. The Announcement Controller's shared operations: joining a station queue, starting, pre-empting and completing a
play, and the entries that incidents, approaches and second events bring (R160 to R163, R166 to R169, R171). -/

namespace Sys2Proof.Machine

/-! ## Station queues (R160) -/

/-- One join sequence comes before another: signed difference modulo 2^32 (R160). -/
def seqBefore (a b : Count) : Bool := decide ((a - b).toInt < 0)

/-- Queue order: priority, highest first, then join sequence, lowest first (R160). -/
def QueueEntry.before (a b : QueueEntry) : Bool :=
  Priority.code a.priority < Priority.code b.priority || (a.priority = b.priority && seqBefore a.seq b.seq)

/-- An entry takes its place in queue order. -/
def enqueue (e : QueueEntry) (q : List QueueEntry) : List QueueEntry := insertBy QueueEntry.before e q

/-- An entry is eligible: its not-before is absent or reached, and its expiry is not reached (R158). -/
def QueueEntry.eligible (now : Count) (e : QueueEntry) : Bool :=
  e.notBefore.all (reached now) && !reachedOpt now e.expiry

/-- The outcome of an entry's joining a queue (R160, R164). -/
inductive JoinOutcome where
  | queued | evicted | full | expired | noChannel
  deriving DecidableEq, Repr

/-- The entry with the join sequence it is given; a not-before already reached needs no event. -/
def stamped (now seq : Count) (e : QueueEntry) : QueueEntry :=
  { e with seq := seq, notBeforeTaken := e.notBefore.all (reached now) }

/-- An entry joins a queue: in its place; at the cost of the last entry of a full queue when its priority is higher; or not at all
(R160). -/
def joinChannel (now : Count) (e : QueueEntry) (c : StationChannel) : StationChannel × JoinOutcome :=
  if reachedOpt now e.expiry then (c, .expired)
  else if c.queue.length < Config.maxQueue then
    ({ c with queue := enqueue (stamped now c.nextSeq e) c.queue, nextSeq := c.nextSeq + 1 }, .queued)
  else
    match c.queue.getLast? with
    | some l =>
      if Priority.code e.priority < Priority.code l.priority then
        ({ c with queue := enqueue (stamped now c.nextSeq e) c.queue.dropLast, nextSeq := c.nextSeq + 1 }, .evicted)
      else (c, .full)
    | none => (c, .full)

/-- A station's channel and queue replaced. -/
def setChannel (st : Nat) (c : StationChannel) (s : State) : State :=
  { s with anc := { s.anc with channels := tput s.anc.channels st c } }

/-! ## Starting (R159, R161) -/

/-- The parameter values a PLAY carries: the entry's first values, 0 for those it lacks (R159). -/
def playParams (count : Nat) (params : List Nat) : List Nat := (params ++ List.replicate count 0).take count

/-- The start attempt on a silent channel: the first eligible entry starts, one whose template is not defined being dropped first;
at most `fuel` entries are tried (R161). -/
def startLoop (now : Count) (templates : Table TemplateFields) (st : Nat) : Nat → StationChannel → StationChannel × Option Order
  | 0, c => (c, none)
  | fuel + 1, c =>
    match c.queue.find? (QueueEntry.eligible now) with
    | none => (c, none)
    | some e =>
      let c' := { c with queue := c.queue.erase e }
      match tget templates e.template with
      | none => startLoop now templates st fuel c'
      | some t =>
        ({ c' with playing := some { entry := e, start := now, ending := later now t.length, finishing := false } },
          some (.play st e.template e.priority (playParams t.params e.params)))

/-- A start attempt at a station; a channel PLAYING is left alone (R161). -/
def startAttempt (st : Nat) (s : State) : State :=
  match tget s.anc.channels st with
  | none => s
  | some c =>
    if c.playing.isSome then s
    else
      let r := startLoop s.now s.anc.templates st c.queue.length c
      match r.2 with
      | none => setChannel st r.1 s
      | some o => queueOrder o (setChannel st r.1 s)

/-! ## Pre-emption (R163) -/

/-- An eligible EMERGENCY entry. -/
def QueueEntry.urgent (now : Count) (e : QueueEntry) : Bool := e.priority = .emergency && e.eligible now

/-- A cut DISRUPTION entry goes back into the queue with its own join sequence; other entries are dropped (R163, step 4). -/
def putBack (st : Nat) (p : Playing) (s : State) : State :=
  match tget s.anc.channels st with
  | none => s
  | some c =>
    if p.entry.priority = .disruption && !p.finishing then setChannel st { c with queue := enqueue p.entry c.queue } s else s

/-- An EMERGENCY entry has become eligible: a play of lower priority is cut for it, if one whose template is defined waits
(R163). -/
def preempt (st : Nat) (s : State) : State :=
  match tget s.anc.channels st with
  | none => s
  | some c =>
    match c.playing with
    | none => s
    | some p =>
      if p.entry.priority = .emergency then s
      else
        let q := c.queue.filter (fun e => !(e.urgent s.now && !thas s.anc.templates e.template))
        if q.any (QueueEntry.urgent s.now) then
          putBack st p (startAttempt st (setChannel st { c with playing := none, queue := q } (queueOrder (.cut st) s)))
        else setChannel st { c with queue := q } s

/-- What follows when an entry joins or its not-before is reached: a start attempt on a SILENT channel, else pre-emption by an
eligible EMERGENCY entry (R161, R163). -/
def becameReady (st : Nat) (e : QueueEntry) (s : State) : State :=
  match tget s.anc.channels st with
  | none => s
  | some c =>
    if c.playing.isNone then startAttempt st s
    else if e.urgent s.now then preempt st s
    else s

/-- An entry joins a station's queue, and what follows from it (R160, R161, R163); a station with no channel takes nothing. -/
def joinQueue (st : Nat) (e : QueueEntry) (s : State) : State × JoinOutcome :=
  match tget s.anc.channels st with
  | none => (s, .noChannel)
  | some c =>
    let r := joinChannel s.now e c
    match r.2 with
    | .queued => (becameReady st e (setChannel st r.1 s), .queued)
    | .evicted => (becameReady st e (setChannel st r.1 s), .evicted)
    | o => (s, o)

/-- An entry the part generates joins the queues of a list of stations, in order. -/
def joinAll (e : QueueEntry) (l : List Nat) (s : State) : State := l.foldl (fun s st => (joinQueue st e s).1) s

/-! ## Completion and reminders (R162) -/

/-- The remaining count of the next reminder, if there is to be one (R162). -/
def Remaining.next : Remaining → Option Remaining
  | .count 0 => none
  | .count (n + 1) => some (.count n)
  | .untilClosed => some .untilClosed

/-- The reminder entry that follows a completed play (R162). -/
def reminderEntry (now : Count) (p : Playing) : Option QueueEntry :=
  match p.entry.reminder with
  | none => none
  | some r =>
    if p.finishing then none
    else (Remaining.next r.remaining).map (fun k =>
      { p.entry with
        template := r.template
        notBefore := some (later now r.interval)
        expiry := none
        reminder := some { r with remaining := k } })

/-- A play is complete: the channel is SILENT, a reminder joins, and a start attempt follows (R162). -/
def completePlay (st : Nat) (s : State) : State :=
  match tget s.anc.channels st with
  | none => s
  | some c =>
    match c.playing with
    | none => s
    | some p =>
      let s1 := setChannel st { c with playing := none } s
      match reminderEntry s.now p with
      | none => startAttempt st s1
      | some e => startAttempt st (joinQueue st e s1).1

/-! ## Entries by origin -/

/-- An entry with no origin fields, not-before, expiry or reminder. -/
def plainEntry (template : Nat) (priority : Priority) (params : List Nat) (origin : Origin) : QueueEntry :=
  { template := template, priority := priority, params := params, origin := origin, desk := none, series := none, incident := none,
    train := none, notBefore := none, expiry := none, reminder := none, seq := 0, notBeforeTaken := true }

/-- The number a location carries into parameters and layouts: 65535 for none (R167). -/
def IncidentLoc.number : IncidentLoc → Nat
  | .stop n => n
  | .sect n => n
  | .zone n => n
  | .trip n => n
  | .none => 65535

/-- Whether a severity is at or above another (R167). -/
def severe (a least : Severity) : Bool := Severity.code a ≤ Severity.code least

/-- The plan of an incident: the lowest map entry with its kind and number, else with its kind and ANY (R166). -/
def planOf (plans : Table Plan) (src : Source) : Option Plan :=
  match plans.find? (fun p => p.2.source = src.kind && p.2.number = .num src.number) with
  | some p => some p.2
  | none => (plans.find? (fun p => p.2.source = src.kind && p.2.number = .any)).map Prod.snd

/-- The affected stations of an incident, rising (R167). -/
def affectedStations (s : State) (i : Incident) : List Nat :=
  (tkeys s.lds.stations).filter (fun st =>
    s.lds.stops.any (fun p => p.2.station = st && (i.targets.contains p.2.sect || i.loc = .stop p.1)))

/-- The four parameters of an incident's announcements (R167). -/
def incidentParams (n : Nat) (i : Incident) : List Nat := [n, i.source.number, Severity.code i.severity, i.loc.number]

/-- The opening entry of an incident (R167). -/
def openingEntry (n : Nat) (i : Incident) (p : Plan) : QueueEntry :=
  { plainEntry p.opening (if i.severity = .emergency then .emergency else .disruption) (incidentParams n i) .incident with
    incident := some n
    reminder := p.reminder.map (fun r => { template := r, interval := p.interval, remaining := .untilClosed }) }

/-- The ANC is told of a new incident: with a plan it meets, opening entries join at its affected stations and a record is kept
(R167). In SETUP nothing is queued or recorded. -/
def tellNewIncident (n : Nat) (i : Incident) (s : State) : State :=
  if !s.inService then s
  else
    match planOf s.anc.plans i.source with
    | none => s
    | some p =>
      let stations := affectedStations s i
      if !severe i.severity p.minSeverity || stations.isEmpty then s
      else
        let s1 := joinAll (openingEntry n i p) stations s
        { s1 with anc := { s1.anc with
            announced := s1.anc.announced ++ [{ incident := n, stations := stations, resumed := p.resumed, params := incidentParams n i }] } }

/-- An entry of origin INCIDENT that carries the number. -/
def QueueEntry.ofIncident (n : Nat) (e : QueueEntry) : Bool := e.origin = .incident && e.incident = some n

/-- At one station, the queued entries of a removed incident leave and one that plays is to finish (R168, steps 1 and 2). -/
def dropIncident (n : Nat) (c : StationChannel) : StationChannel :=
  { c with
    queue := c.queue.filter (fun e => !e.ofIncident n)
    playing := c.playing.map (fun p => if p.entry.ofIncident n then { p with finishing := true } else p) }

/-- The ANC is told of the removal of an incident (R168). -/
def tellRemoval (n : Nat) (s : State) : State :=
  if !s.inService then s
  else
    let s1 := { s with anc := { s.anc with
      channels := tmap s.anc.channels (fun _ c => dropIncident n c)
      announced := s.anc.announced.filter (fun a => a.incident ≠ n) } }
    match s.anc.announced.find? (fun a => a.incident = n) with
    | none => s1
    | some a =>
      match a.resumed with
      | none => s1
      | some t => joinAll (plainEntry t .service a.params .scheduled) a.stations s1

/-- The later of two running-count values. -/
def laterOf (a b : Count) : Count := if reached a b then a else b

/-- The station of stop point `q` and its approach lead, where a departure toward `q` is announced: the lead is not 0 and the
approach template is defined (R169). -/
def approachLead (q : Nat) (s : State) : Option (Nat × Nat) :=
  ((tget s.lds.stops q).bind (fun stop => (tget s.lds.stations stop.station).map (fun st => (stop.station, st.lead)))).filter
    (fun r => r.2 ≠ 0 && thas s.anc.templates s.anc.approach)

/-- The entry an approach announcement queues: `dest` is the stop point it names (R169). -/
def approachEntry (now : Count) (template train dest lead : Nat) (p : Prediction) : QueueEntry :=
  { plainEntry template .routine [dest, train] .approach with
    train := some train
    notBefore := some (laterOf now (p.count - BitVec.ofNat 32 lead))
    expiry := some p.count }

/-- TRAIN_LEAVE takes every queued APPROACH entry of the train out of every queue (R68, R169). -/
def dropApproach (train : Nat) (s : State) : State :=
  { s with anc := { s.anc with channels := tmap s.anc.channels (fun _ c =>
      { c with queue := c.queue.filter (fun e => !(e.origin = .approach && e.train = some train)) }) } }

/-! ## Scheduled entries (R171) -/

/-- ANY or equal. -/
def OrAny.fits (o : OrAny) (n : Nat) : Bool := o = .any || o = .num n

/-- A scheduled entry matches a second event (R171). -/
def Scheduled.matchesSecond (e : Scheduled) (hour minute second day : Nat) : Bool :=
  e.enabled && e.dayMask.contains day && OrAny.fits e.hour hour && OrAny.fits e.minute minute && OrAny.fits e.second second

/-- A matching entry fires: it is queued at its stations, fired is set, and a ONCE entry is disabled (R171). -/
def fireScheduled (hour minute second day i : Nat) (s : State) : State :=
  match s.anc.scheduled[i]? with
  | none => s
  | some e =>
    if e.matchesSecond hour minute second day then
      let s1 := joinAll (plainEntry e.template e.priority [hour, minute, second, day] .scheduled) e.stations s
      { s1 with anc := { s1.anc with
          scheduled := vmod s1.anc.scheduled i (fun e => { e with fired := true, enabled := e.enabled && e.mode ≠ .once }) } }
    else s

/-- A second event: every enabled entry that matches fires (R171), in rising entry number, one whole entry after another (DESIGN CHOICE,
log 43). `sec` is the whole second of the day. -/
def secondEvent (sec day : Nat) (s : State) : State :=
  (List.range 32).foldl (fun s i => fireScheduled (sec / 3600) (sec / 60 % 60) (sec % 60) day i s) s

/-- A CUT order for each station whose channel is PLAYING (R13, R17, R173). The rising station number in which several are queued is a
DESIGN CHOICE (log 44). -/
def cutAll (s : State) : State :=
  s.anc.channels.foldl (fun s p => if p.2.playing.isSome then queueOrder (.cut p.1) s else s) s

end Sys2Proof.Machine
end

