-- ==== Sys2Proof/Machine/IncidentOps.lean ====
section
/-! DEFINITION. The Incident Manager's table: raising and merging, and what is computed from the table and the trip inputs
(R142 to R145, R149 to R151). Telling other blocks of effective actions stands in EffectOps. -/

namespace Sys2Proof.Machine

/-- An incident is in force while ACTIVE or ACKED (R142). -/
def Incident.inForce (i : Incident) : Bool := i.state ≠ .lifted

/-- The captured settings of the trip inputs in force without an entry (R137). -/
def looseInputs (m : Inm) : List Captured :=
  m.inputs.toList.filterMap (fun t => if t.inForce && t.entry.isNone then t.captured else none)

/-- The stronger of two actions (R149). -/
def stronger (a b : Action) : Action := if Action.code a ≤ Action.code b then a else b

/-- The graver of two severities (R144). -/
def graver (a b : Severity) : Severity := if Severity.code a ≤ Severity.code b then a else b

/-- The effective action of section `x`: the strongest among the entries in force and the inputs in force without an entry that
name it, NONE if there is none (R149). -/
def computeAction (m : Inm) (x : Nat) : Action :=
  (((m.incidents.filter (fun p => p.2.inForce && p.2.targets.contains x)).map (fun p => p.2.action))
    ++ (((looseInputs m).filter (fun c => c.targets.contains x)).map Captured.action)).foldl stronger .none

/-- Some incident in force, or input in force without an entry, has a severity that satisfies `p`. -/
def severityInForce (m : Inm) (p : Severity → Bool) : Bool :=
  m.incidents.any (fun e => e.2.inForce && p e.2.severity) || (looseInputs m).any (fun c => p c.severity)

/-- The incident condition: MAJOR or EMERGENCY in force (R151). -/
def incidentCondition (m : Inm) : Bool := severityInForce m (fun v => v ≠ .minor)

/-- An entry of this severity is ACTIVE, or an input of it is in force without an entry (R150). -/
def unacknowledged (m : Inm) (v : Severity) : Bool :=
  m.incidents.any (fun e => e.2.state = .active && e.2.severity = v) || (looseInputs m).any (fun c => c.severity = v)

/-- LINE STOP and the three incident categories follow the table (R150, R151). -/
def refreshIncidents (s : State) : State :=
  let s1 := { s with inm := { s.inm with lineStop := severityInForce s.inm (fun v => v = .emergency) } }
  let s2 := setCategory .emergencyIncident (unacknowledged s1.inm .emergency) s1
  let s3 := setCategory .majorIncident (unacknowledged s2.inm .major) s2
  setCategory .minorIncident (unacknowledged s3.inm .minor || s3.inm.tableFull) s3

/-- What a raise carries (R144). -/
structure Raise where
  source : Source
  loc : IncidentLoc
  severity : Severity
  action : Action
  targets : List Nat
  mode : Mode
  condition : Bool
  deriving DecidableEq, Repr

/-- What a raise comes to (R144). -/
inductive RaiseOutcome where
  | new (n : Nat)
  | merged (n : Nat)
  | full
  deriving DecidableEq, Repr

/-- The number after `n`: after 65535 it wraps to 1 (R143). -/
def nextIncident (n : Nat) : Nat := if 65535 ≤ n then 1 else n + 1

/-- The first number from `n` on that no entry holds; `fuel` numbers are passed over at most (R143). -/
def freeNumber (t : Table Incident) : Nat → Nat → Nat
  | 0, n => n
  | fuel + 1, n => if thas t n then freeNumber t fuel (nextIncident n) else n

/-- An entry raised again (R144, Merge). -/
def mergeRaise (r : Raise) (i : Incident) : Incident :=
  { i with
    recurrences := satSucc 255 i.recurrences
    severity := graver i.severity r.severity
    action := stronger i.action r.action
    targets := normSet 24 (i.targets ++ r.targets)
    condition := i.condition || r.condition
    state := if i.state = .lifted then .active else i.state
    ack := if i.state = .lifted then none else i.ack }

/-- A new entry (R144). -/
def newIncident (now : Count) (r : Raise) : Incident :=
  { source := r.source, loc := r.loc, severity := r.severity, action := r.action, targets := r.targets, mode := r.mode,
    condition := r.condition, state := .active, ack := none, raised := now, recurrences := 0 }

/-- The entry with a source and location (R142). -/
def findIncident (t : Table Incident) (src : Source) (loc : IncidentLoc) : Option (Nat × Incident) :=
  t.find? (fun p => p.2.source = src && p.2.loc = loc)

/-- A raise on the table alone: a merge, a new entry with the next free number, or no room (R143, R144). -/
def raiseTable (now : Count) (r : Raise) (m : Inm) : Inm × RaiseOutcome :=
  match findIncident m.incidents r.source r.loc with
  | some p => ({ m with incidents := tmod m.incidents p.1 (mergeRaise r) }, .merged p.1)
  | none =>
    if m.incidents.length < Config.maxIncidents then
      let n := freeNumber m.incidents (Config.maxIncidents + 1) m.nextNumber
      ({ m with incidents := tput m.incidents n (newIncident now r), nextNumber := nextIncident n }, .new n)
    else (m, .full)

/-- The target sections of the entry a raise made or merged into. -/
def outcomeTargets (m : Inm) : RaiseOutcome → List Nat
  | .new n => ((tget m.incidents n).map Incident.targets).getD []
  | .merged n => ((tget m.incidents n).map Incident.targets).getD []
  | .full => []

/-- The number of the entry a raise made or merged into. -/
def RaiseOutcome.number : RaiseOutcome → Option Nat
  | .new n => some n
  | .merged n => some n
  | .full => none

/-- The ANC is told of a new entry; a merge is not told (R144). -/
def tellOutcome (o : RaiseOutcome) (s : State) : State :=
  match o with
  | .new n =>
    match tget s.inm.incidents n with
    | some i => tellNewIncident n i s
    | none => s
  | _ => s

/-- A raise on the table, with the ANC told of a new entry; a lost raise sets the table-full indication (R144, R145). -/
def raiseTold (r : Raise) (s : State) : State × RaiseOutcome :=
  let t := raiseTable s.now r s.inm
  match t.2 with
  | .full => ({ s with inm := { t.1 with tableFull := true } }, .full)
  | o => (tellOutcome o { s with inm := t.1 }, o)

/-- An INTEGRITY incident located at a trip: MINOR, no action, no targets, so no section's effective action is concerned (R45,
R140). -/
def raiseIntegrity (trip : Nat) (s : State) : State :=
  refreshIncidents (raiseTold
    { source := { kind := .integrity, number := 0 }, loc := .trip trip, severity := .minor, action := .none, targets := [],
      mode := .latched, condition := false } s).1

/-- The sections of a stop point under a target scope (R138); none where the stop point is no longer defined (DESIGN CHOICE, log 42). -/
def scopeTargets (s : State) (scope : Scope) (p : Nat) : List Nat :=
  match tget s.lds.stops p with
  | none => []
  | some stop =>
    match scope with
    | .stopSection => normSet 24 [stop.sect]
    | .station => normSet 24 ((s.lds.stops.filter (fun q => q.2.station = stop.station)).map (fun q => q.2.sect))

end Sys2Proof.Machine
end

