-- ==== Sys2Proof/Machine/StoreOps.lean ====
section
/-! DEFINITION. The Timetable Store's shared operations: store order, checked reads, the runs of trips and the daily reset
(R34, R40 to R47). -/

namespace Sys2Proof.Machine

/-- The trip numbered `n`. -/
def findTrip (s : State) (n : Nat) : Option Trip := s.store.trips.find? (fun t => t.number = n)

/-- The trips changed by `f`, the order kept. -/
def mapTrips (f : Trip → Trip) (s : State) : State := { s with store := { s.store with trips := s.store.trips.map f } }

/-- The trip numbered `n` changed by `f`, its place kept. -/
def modTrip (n : Nat) (f : Trip → Trip) (s : State) : State := mapTrips (fun t => if t.number = n then f t else t) s

/-- The Sd of a trip's first entry, which decides its place (R34). Where that entry is unreadable, so that R45 makes its Sd absent, the Sd
last written still decides: a DESIGN CHOICE (log 45). -/
def Trip.firstSd (t : Trip) : Nat := ((t.entries.head?.bind (fun e => e.coded.sd))).getD 0

/-- Store order: first departure, then trip number (R34). -/
def Trip.before (a b : Trip) : Bool := a.firstSd < b.firstSd || (a.firstSd = b.firstSd && a.number < b.number)

/-- A trip takes its place in store order. -/
def placeTrip (t : Trip) (l : List Trip) : List Trip := insertBy Trip.before t l

/-- The number of stop entries in the store (R34). -/
def entryCount (l : List Trip) : Nat := (l.map (fun t => t.entries.length)).sum

/-- The position of a trip in store order. -/
def tripPosition (s : State) (n : Nat) : Nat := (indexWhere (fun t => t.number = n) s.store.trips).getD 0

/-! ## Checked reads (R44 to R46) -/

/-- What a read of an entry gives: its stop point, and its coded content unless it is unreadable (R44, R45). -/
structure EntryView where
  stop : Nat
  coded : Option EntryFields
  deriving DecidableEq, Repr

/-- A correction: the corrected count rises to at most 255, and at the wear threshold STORE_WEAR is reported (R46). -/
def noteCorrection (s : State) : State :=
  let n := satSucc 255 s.store.corrected
  let s1 := { s with store := { s.store with corrected := n } }
  if s.store.wear ≤ n then report .storeWear s1 else s1

/-- Entry `i` of trip `n` changed by `f`. -/
def modEntry (n i : Nat) (f : Entry → Entry) (s : State) : State := modTrip n (fun t => { t with entries := lmod t.entries i f }) s

/-- A double error is found: the entry is unreadable with the stop point as read, the trip is DAMAGED, and INTEGRITY is raised
(R45). -/
def foundDouble (n i stopRead : Nat) (s : State) : State :=
  raiseIntegrity n
    (modTrip n (fun t => { t with damaged := true })
      (modEntry n i (fun e => { e with bits := .unreadable, coded := { e.coded with stop := stopRead } }) s))

/-- A checked read of entry `i` of trip `n` (R44, R45). -/
def readEntry (n i : Nat) (s : State) : State × Option EntryView :=
  match (findTrip s n).bind (fun t => t.entries[i]?) with
  | none => (s, none)
  | some e =>
    match e.bits with
    | .clean => (s, some { stop := e.coded.stop, coded := some e.coded })
    | .single => (noteCorrection (modEntry n i (fun e => { e with bits := .clean }) s), some { stop := e.coded.stop, coded := some e.coded })
    | .double p => (foundDouble n i p s, some { stop := p, coded := none })
    | .unreadable => (s, some { stop := e.coded.stop, coded := none })

/-- Checked reads of entries `i`, `i + 1`, … of trip `n`, at most `fuel` of them, up to the first whose stop point is `p`; its
index, if there is one. -/
def readUntilStop (n p : Nat) : Nat → Nat → State → State × Option Nat
  | 0, _, s => (s, none)
  | fuel + 1, i, s =>
    match readEntry n i s with
    | (s1, none) => (s1, none)
    | (s1, some v) => if v.stop = p then (s1, some i) else readUntilStop n p fuel (i + 1) s1

/-- The number of entries of a trip, 0 for one not stored. -/
def tripLength (s : State) (n : Nat) : Nat := ((findTrip s n).map (fun t => t.entries.length)).getD 0

/-- The first entry of trip `n`, from `start` on, whose stop point is `p`, with its reads checked (R55, R57, R61, R64); that the entries
behind it are not read is DEDUCED (log 51). -/
def findStopFrom (n p start : Nat) (s : State) : State × Option Nat := readUntilStop n p (tripLength s n - start) start s

/-! ## Runs (R40, R41) -/

/-- Every entry of a trip set to a status. -/
def Trip.setAll (v : EntryStatus) (t : Trip) : Trip := { t with entries := t.entries.map (fun e => { e with status := v }) }

/-- A run begins: RUNNING with its train, every entry before the joining entry SKIPPED (R40). A trip that is not PLANNED is not
started. -/
def startRun (n train i : Nat) (s : State) : State :=
  modTrip n (fun t =>
    if t.run = .planned then
      { t with
        run := .running
        train := some train
        entries := t.entries.mapIdx (fun j e => if j < i then { e with status := .skipped } else e) }
    else t) s

/-- The joining or arrival entry becomes CALLED (R41). -/
def callEntry (n i : Nat) (s : State) : State := modEntry n i (fun e => { e with status := .called }) s

/-- The entries from `i` up to but not including `j` become SKIPPED (R41). -/
def skipEntries (n i j : Nat) (s : State) : State :=
  modTrip n (fun t => { t with
    entries := t.entries.mapIdx (fun k e => if i ≤ k ∧ k < j then { e with status := .skipped } else e) }) s

/-- A trip as a reset leaves it: PLANNED, entries PENDING, rollover passed clear (R41, R43). -/
def Trip.resetDay (t : Trip) : Trip := Trip.setAll .pending { t with run := .planned, rolled := false }

/-- The end of a RUNNING trip's run, with the end-of-run reset if a rollover has passed (R41). -/
def Trip.finish (how : RunState) (t : Trip) : Trip :=
  if t.run = .running then
    let t1 := { t with run := how, train := none }
    if t.rolled then t1.resetDay else t1
  else t

/-- A run ends (R41). -/
def endRun (n : Nat) (how : RunState) (s : State) : State := modTrip n (Trip.finish how) s

/-- The daily reset at a rollover (R43). -/
def dailyReset (s : State) : State := mapTrips (fun t => if t.run = .running then { t with rolled := true } else t.resetDay) s

/-- A trip is valid on the service day in progress (R32). While the clock is UNSET the day the clock record holds is taken for it, which
only the not-valid-today indications of R55 and R57 then read: a DESIGN CHOICE (log 49). -/
def validToday (s : State) (t : Trip) : Bool := t.dayMask.contains s.clock.serviceDay

/-! ## The scrub (R47) -/

/-- The position after (trip `n`, index `i`) in store order of entries, going round at the end. -/
def nextScrub (l : List Trip) (p : ScrubPos) : Option ScrubPos :=
  match indexWhere (fun t => t.number = p.trip) l with
  | none => l.head?.map (fun t => { trip := t.number, index := 0 })
  | some k =>
    match l[k]? with
    | none => none
    | some t =>
      if p.index + 1 < t.entries.length then some { trip := p.trip, index := p.index + 1 }
      else ((l[k + 1]?).or l.head?).map (fun t => { trip := t.number, index := 0 })

/-- One scrub: the entry at the position is read unless it is unreadable, and the position moves on (R47). -/
def scrubOnce (s : State) : State :=
  match s.store.scrub with
  | none => s
  | some p =>
    let s1 := (readEntry p.trip p.index s).1
    { s1 with store := { s1.store with scrub := nextScrub s1.store.trips p } }

/-! ## Disturbances of the stored bits (log 5) -/

/-- The condition of an entry's bits after a disturbance: a second wrong bit makes a double error. -/
def disturb (d : Disturbance) (e : Entry) : Entry :=
  { e with bits :=
      match e.bits, d with
      | .unreadable, _ => .unreadable
      | .clean, .single => .single
      | .single, .single => .double e.coded.stop
      | .double p, .single => .double p
      | _, .double p => .double (p % 64) }

/-- The disturbances a tick brings are laid on the store. -/
def applyFlips (flips : List StoreFlip) (s : State) : State :=
  flips.foldl (fun s f => modEntry f.trip f.index (disturb f.kind) s) s

end Sys2Proof.Machine
end

