-- ==== Sys2Proof/Machine/Regulate.lean ====
section
/-! DEFINITION. The Regulator: the stages of a regulation as functions of their inputs, and the acts on train records, headway
memories and merge records (R73 to R88). -/

namespace Sys2Proof.Machine

/-! ## Inputs (R73) -/

/-- What a regulation takes from the stop entry, or from the stop point where there is none to use (R73). -/
structure Bounds where
  sa : Option Nat
  sd : Option Nat
  dmin : Nat
  dmax : Nat
  profile : Nat
  deriving DecidableEq, Repr

/-- The bounds of a readable entry, or the stop point's for an unscheduled train or an unreadable entry (R73). -/
def boundsOf (p : Stop) : Option EntryFields → Bounds
  | some e => { sa := e.sa, sd := e.sd, dmin := e.dmin, dmax := e.dmax, profile := e.profile }
  | none => { sa := none, sd := none, dmin := p.minDwell, dmax := p.maxDwell, profile := p.profile }

/-- The inputs of an arrival regulation (R73). -/
structure RegInput where
  train : Nat
  arrSvc : Option Nat
  arrCount : Count
  stop : Stop
  bounds : Bounds
  damaged : Bool
  memory : Headway
  incident : Bool
  restrict : Bool
  params : RegParams
  deriving DecidableEq, Repr

/-! ## Stages (R74 to R81) -/

/-- Stage 1, the planned dwell (R74; log 14). -/
def plannedDwell (p : Stop) (b : Bounds) : Nat :=
  match b.sa, b.sd with
  | some a, some d => d - a
  | _, _ => clampNat b.dmin b.dmax p.minDwell

/-- What lateness is measured against: Sa, or the notional arrival of a first entry (R74). -/
def dueArrival (b : Bounds) (dp : Nat) : Option Int :=
  match b.sa, b.sd with
  | some a, _ => some a
  | none, some d => some (((d : Int) - dp) % 864000)
  | none, none => none

/-- Stage 2, the schedule lateness (R75). -/
def latenessOf (damaged : Bool) (ta : Option Nat) (due : Option Int) : Option Int :=
  match damaged, ta, due with
  | false, some t, some a => some (clampInt (-30000) 30000 (svcDiff t a))
  | _, _, _ => none

/-- Stage 3, the planned headway (R76). -/
def plannedHeadway (p : Stop) (b : Bounds) (m : Headway) : Int :=
  match b.sd, m.sprev with
  | some d, some q => svcDiff d q
  | _, _ => p.headway

/-- Stage 3, the actual headway against a last departure (R76). -/
def actualHeadway (arr : Count) (dp : Nat) (last : Count) : Int := (later arr dp - last).toInt

/-- Stage 3, the headway error with the planned and actual headway (R76). -/
def headwayError (i : RegInput) (dp : Nat) : Option (Int × Int × Int) :=
  match i.memory.last with
  | none => none
  | some last =>
    if i.memory.train = some i.train then none
    else
      let hp := plannedHeadway i.stop i.bounds i.memory
      let ha := actualHeadway i.arrCount dp last
      some (hp, ha, clampInt (-30000) 30000 (hp - ha))

/-- Stage 4, the effective weight (R77). -/
def effectiveWeight (w : Nat) (lateness error : Option Int) (incident : Bool) : Nat :=
  match lateness, error with
  | none, _ => 0
  | some _, none => 16
  | some _, some _ => if incident then 0 else w

/-- Stage 5, the blend (R78). -/
def blend (w : Nat) (lateness error : Option Int) : Int :=
  ((w : Int) * (-(lateness.getD 0)) + (16 - (w : Int)) * error.getD 0).tdiv 16

/-- Stage 6, the gain (R78). -/
def applyGain (g : Nat) (c : Int) : Int := (c * g).tdiv 16

/-- Stage 7, the dead band (R78). -/
def deadBand (early late : Nat) (c : Int) : Int :=
  if 0 < c then (if c ≤ early then 0 else c - early)
  else if c < 0 then (if -c ≤ late then 0 else c + late)
  else 0

/-- Stage 8, the dwell order and its clamp indication (R79). -/
def dwellOrder (b : Bounds) (v : Int) : Nat × Clamp :=
  if v < b.dmin then (b.dmin, .low) else if (b.dmax : Int) < v then (b.dmax, .high) else (v.toNat, .unclamped)

/-- Stage 9, the residual lateness (R80). -/
def residualOf (lateness : Option Int) (d dp : Nat) : Int :=
  match lateness with
  | some l => l + ((d : Int) - dp)
  | none => 0

/-- Stage 10, the profile (R80). -/
def profileOf (n step : Nat) (residual : Int) (restrict : Bool) : Nat :=
  if restrict then 3 else (clampInt 0 3 ((n : Int) - residual.tdiv step)).toNat

/-- Stages 1 to 10 together: the record R80 keeps as the last regulation. -/
def regulate (i : RegInput) : LastReg :=
  let dp := plannedDwell i.stop i.bounds
  let l := latenessOf i.damaged i.arrSvc (dueArrival i.bounds dp)
  let e := headwayError i dp
  let err := e.map (fun x => x.2.2)
  let w := effectiveWeight i.params.weight l err i.incident
  let c := blend w l err
  let c1 := applyGain i.params.gain c
  let c2 := deadBand i.params.early i.params.late c1
  let d := dwellOrder i.bounds (dp + c2)
  let r := residualOf l d.1 dp
  { train := i.train, arrCount := i.arrCount, dp := dp, lateness := l, hp := e.map Prod.fst, ha := e.map (fun x => x.2.1),
    error := err, weight := w, c := c, c1 := c1, c2 := c2, dwell := d.1, clamp := d.2, residual := r,
    shift := r.tdiv i.params.step, profile := profileOf i.bounds.profile i.params.step r i.restrict }

/-- Stage 11, the prediction from an arrival and dwell order over a next link at a profile (R81). -/
def predict (next : Option LinkFields) (profile : Nat) (arr : Count) (ta : Option Nat) (d : Nat) : Option Prediction :=
  next.map (fun l =>
    { count := later arr (d + runTime l profile), svc := ta.map (fun t => (t + d + runTime l profile) % 864000) })

/-! ## Acts on train records -/

/-- A train record changed. -/
def modTrain (n : Nat) (f : Train → Train) (s : State) : State :=
  { s with trt := { s.trt with trains := tmod s.trt.trains n f } }

/-- The record of a train. -/
def getTrain (s : State) (n : Nat) : Option Train := tget s.trt.trains n

/-- The next link of a train, as defined. -/
def nextLinkOf (s : State) (t : Train) : Option LinkFields := t.nextLink.bind (tget s.lds.links)

/-- RESTRICT is the effective action of the section of a train's next link (R82). -/
def nextRestricted (s : State) (t : Train) : Bool :=
  match t.nextLink with
  | some l => restricted s l
  | none => false

/-- The bounds for a train at a stop point, its entry read and checked (R73, R83, R84). -/
def readBounds (t : Train) (p : Stop) (s : State) : State × Bounds :=
  match t.trip with
  | none => (s, boundsOf p none)
  | some r =>
    let q := readEntry r.trip r.index s
    (q.1, boundsOf p (q.2.bind EntryView.coded))

/-- The DAMAGED indication of a train's trip (R73). -/
def tripDamaged (s : State) (t : Train) : Bool :=
  match t.trip with
  | some r => ((findTrip s r.trip).map Trip.damaged).getD false
  | none => false

/-- The arrival regulation of a train at its stop point `p` (R73 to R81); the clamp indication is returned. -/
def regulateArrival (n p : Nat) (s : State) : State × Clamp :=
  match getTrain s n, tget s.lds.stops p with
  | some t, some stop =>
    let b := readBounds t stop s
    let s1 := b.1
    let i : RegInput :=
      { train := n, arrSvc := t.arrSvc, arrCount := t.arrCount, stop := stop, bounds := b.2, damaged := tripDamaged s1 t,
        memory := (tget s1.reg.headways p).getD { last := none, sprev := none, train := none },
        incident := incidentCondition s1.inm, restrict := nextRestricted s1 t, params := s1.reg.params }
    let r := regulate i
    let s2 := modTrain n (fun t => { t with
      dwell := r.dwell
      dwellExpiry := later t.arrCount r.dwell
      lateness := r.lateness
      profile := r.profile
      predicted := predict (nextLinkOf s1 t) r.profile t.arrCount t.arrSvc r.dwell }) s1
    ({ s2 with reg := { s2.reg with lastRegs := tput s2.reg.lastRegs p r } }, r.clamp)
  | _, _ => (s, .unclamped)

/-- The profile recomputation of a standing train (R83). Where the record holds no lateness the residual is 0, as R80 has it, and not D - Dp
with a lateness of 0: a DESIGN CHOICE (log 50). -/
def recomputeProfile (n : Nat) (s : State) : State :=
  match getTrain s n with
  | none => s
  | some t =>
    match t.atStop.bind (tget s.lds.stops) with
    | none => s
    | some stop =>
      let b := readBounds t stop s
      let s1 := b.1
      let dp := plannedDwell stop b.2
      let p := profileOf b.2.profile s1.reg.params.step (residualOf t.lateness t.dwell dp) (nextRestricted s1 t)
      modTrain n (fun t => { t with
        profile := p
        predicted := predict (nextLinkOf s1 t) p t.arrCount t.arrSvc t.dwell }) s1

/-- The profile a departure of this train would carry: 3 under RESTRICT, else the profile in force (R82, R85, R87). -/
def departProfile (s : State) (t : Train) : Nat := if nextRestricted s t then 3 else t.profile

/-- The prediction at ASSIGN_TRIP, from the recorded arrival and dwell order (R85). -/
def predictAssigned (n : Nat) (s : State) : State :=
  modTrain n (fun t => { t with
    predicted := predict (nextLinkOf s t) (departProfile s t) t.arrCount t.arrSvc t.dwell }) s

/-- A train is DWELLING or HELD with its next link in section `x` (R82). -/
def waitsToward (s : State) (x : Nat) (t : Train) : Bool :=
  (t.state = .dwelling || t.state = .held) && nextSect s t = some x

/-- RESTRICT begins on section `x`: profile 3 and a new prediction for every DWELLING or HELD train toward it (R82, R85). -/
def restrictBegan (x : Nat) (s : State) : State :=
  { s with trt := { s.trt with trains := tmap s.trt.trains (fun _ t =>
      if waitsToward s x t then
        { t with profile := 3, predicted := predict (nextLinkOf s t) 3 t.arrCount t.arrSvc t.dwell }
      else t) } }

/-- RESTRICT ends on section `x`: a profile recomputation for every DWELLING or HELD train toward it (R82, R83), in rising train number,
an order the rules leave open (DESIGN CHOICE, log 35). -/
def restrictEnded (x : Nat) (s : State) : State :=
  (s.trt.trains.filter (fun p => waitsToward s x p.2)).foldl (fun s p => recomputeProfile p.1 s) s

/-! ## Headway memory (R86) -/

/-- The headway memory of stop point `p` after a released departure of train `n` (R86). -/
def writeHeadway (n p : Nat) (dep : Count) (sd : Option Nat) (s : State) : State :=
  { s with reg := { s.reg with
      headways := tput s.reg.headways p { last := some dep, sprev := sd, train := some n } } }

/-- A rollover makes Sprev absent at every stop point (R28, R86). -/
def clearSprev (s : State) : State :=
  { s with reg := { s.reg with headways := tmap s.reg.headways (fun _ h => { h with sprev := none }) } }

/-! ## Merge separation (R87, R88) -/

/-- The merge record whose link A or B is `l`, and which of the two it is (R87). -/
def mergeOfLink (s : State) (l : Nat) : Option (Nat × MergeRec × Side) :=
  (s.reg.merges.find? (fun m => m.2.linkA = l || m.2.linkB = l)).map
    (fun m => (m.1, m.2, if m.2.linkA = l then Side.a else Side.b))

/-- The outcome of a merge check: satisfied, with what a release would commit, or a wait until an expiry (R87). -/
inductive MergeCheck where
  | satisfied (commit : Option (Nat × Commit))
  | wait (expiry : Count)
  deriving DecidableEq, Repr

/-- The merge check of a standing train (R87). -/
def mergeCheck (s : State) (t : Train) : MergeCheck :=
  match t.nextLink with
  | none => .satisfied none
  | some l =>
    match mergeOfLink s l, tget s.lds.links l with
    | some (m, r, side), some link =>
      let pa := later s.now (runTime link (departProfile s t))
      let ok := MergeCheck.satisfied (some (m, { count := pa, side := side }))
      match r.committed with
      | none => ok
      | some c =>
        let due := later c.count r.separation
        if c.side = side || reached pa due then ok else .wait (s.now + (due - pa))
    | _, _ => .satisfied none

/-- A merge commit at a release (R88). -/
def commitMerge (c : Option (Nat × Commit)) (s : State) : State :=
  match c with
  | none => s
  | some (m, k) => { s with reg := { s.reg with merges := tmod s.reg.merges m (fun r => { r with committed := some k }) } }

end Sys2Proof.Machine
end

