-- ==== Sys2Proof/Machine/GateOps.lean ====
section
/-! DEFINITION. The Departure Gate: hold causes, evaluation, requests, grant selection, grants and their withdrawal (R91 to R106).
An operation that withdraws or returns a release also gives the sections toward which that happened: the Traction Controller makes
its proving test for each (R125). -/

namespace Sys2Proof.Machine

/-! ## Hold causes (R92) -/

/-- The causes in the order of R92. -/
def Cause.all : List Cause :=
  [.dwell, .deskTrain, .deskPlatform, .noRoute, .sectionNotLive, .proving, .isolationPending, .incidentHold, .mergeGap, .awaitGrant]

/-- A cause put into a set. -/
def withCause (c : Cause) (l : List Cause) : List Cause := Cause.all.filter (fun d => d = c || l.contains d)

/-- A cause taken out of a set. -/
def withoutCause (c : Cause) (l : List Cause) : List Cause := l.filter (fun d => d ≠ c)

/-- The record of the section of a train's next link. -/
def nextRec (s : State) (t : Train) : Option SectRec := (nextSect s t).bind (tget s.trc.sections)

/-- A section cause holds: the train has a next link, and its section's record, where there is one, satisfies `p`. -/
def sectCause (s : State) (t : Train) (missing : Bool) (p : SectRec → Bool) : Bool :=
  t.nextLink.isSome &&
    match nextRec s t with
    | some r => p r
    | none => missing

/-- Whether a cause belongs in the set of a standing train now: conditions found afresh, timers and the list cause as the set
holds them (R92). -/
def causeHolds (s : State) (t : Train) : Cause → Bool
  | .dwell => t.causes.contains .dwell
  | .deskTrain => t.deskHold
  | .deskPlatform => t.atStop.any (fun p => s.gate.platformHolds.contains p)
  | .noRoute => t.nextLink.isNone
  | .sectionNotLive => sectCause s t true (fun r => r.state ≠ .live && r.state ≠ .proving)
  | .proving => sectCause s t false (fun r => r.state = .proving || r.owed = Config.maxOwed)
  | .isolationPending => sectCause s t false (fun r => r.pending = some .isolateOnClear)
  | .incidentHold =>
    match nextSect s t with
    | some x => effectiveOf s x = .hold || effectiveOf s x = .deEnergise
    | none => false
  | .mergeGap => t.causes.contains .mergeGap
  | .awaitGrant => t.causes.contains .awaitGrant

/-- The hold-cause set found afresh (R94, step 1). -/
def freshCauses (s : State) (t : Train) : List Cause := Cause.all.filter (causeHolds s t)

/-- A standing train that is not RELEASED: DWELLING or HELD by its set (R93). -/
def stateOf (l : List Cause) : TrainState := if l.contains .dwell then .dwelling else .held

/-- A train's set written, with the state that follows from it (R93). -/
def writeCauses (n : Nat) (l : List Cause) (s : State) : State :=
  modTrain n (fun t => { t with causes := l, state := stateOf l }) s

/-! ## Arbiters (R98, R99) -/

/-- The start arbiter of a zone changed. -/
def modArbiter (z : Nat) (f : Arbiter → Arbiter) (s : State) : State :=
  { s with gate := { s.gate with arbiters := tmod s.gate.arbiters z f } }

/-- The sum of the units of some grants. -/
def unitsOf (l : List Grant) : Nat := (l.map Grant.units).sum

/-- The grants that satisfy `p` end and their units leave the units in use (R98). -/
def Arbiter.drop (p : Grant → Bool) (a : Arbiter) : Arbiter :=
  { a with grants := a.grants.filter (fun g => !p g), inUse := a.inUse - unitsOf (a.grants.filter p) }

/-- A grant is added and its units join the units in use (R98). -/
def Arbiter.add (g : Grant) (a : Arbiter) : Arbiter := { a with grants := a.grants ++ [g], inUse := a.inUse + g.units }

/-- A request fits: within the capacity, or as a solo start (R99). -/
def Arbiter.fits (a : Arbiter) (r : Request) : Bool := a.inUse + r.units ≤ a.capacity || (a.inUse = 0 && 0 < a.capacity)

/-- The GRANTED grant of train `n`. -/
def Grant.grantedTo (n : Nat) (g : Grant) : Bool := g.train = n && g.startedAt.isNone

/-- A STARTED grant of train `n`. -/
def Grant.startedBy (n : Nat) (g : Grant) : Bool := g.train = n && g.startedAt.isSome

/-- The request that a round of selection chooses, if any (R100, steps 1 and 2). -/
def Arbiter.choose (limit : Nat) (a : Arbiter) : Option Request :=
  match a.starts.find? (fun r => r.skipped = limit) with
  | some r => if a.fits r then some r else none
  | none =>
    match a.starts.find? a.fits with
    | none => none
    | some r =>
      if a.lastStop = some r.stop then
        match a.starts.find? (fun q => a.fits q && a.lastStop ≠ some q.stop) with
        | some q => some q
        | none => some r
      else some r

/-- The start list without the chosen request, those that joined before it skipped once more (R100, steps 3 and 4). -/
def passOver (limit : Nat) (r : Request) : List Request → List Request
  | [] => []
  | q :: l => if q.train = r.train then l else { q with skipped := satSucc limit q.skipped } :: passOver limit r l

/-! ## Grants (R101) -/

/-- A merge check at grant fails: the grant is returned and the train waits under MERGE_GAP (R101). -/
def returnGrant (z n : Nat) (expiry : Count) (s : State) : State :=
  modTrain n (fun t => { t with causes := withCause .mergeGap t.causes, mergeGap := some expiry, state := .held })
    (modArbiter z (Arbiter.drop (Grant.grantedTo n)) s)

/-- A grant becomes a release: commit, profile, train record, last-granted stop point and DEPART order (R101, steps 3 to 8). -/
def release (z : Nat) (r : Request) (commit : Option (Nat × Commit)) (t : Train) (s : State) : State :=
  let s1 := commitMerge commit s
  let profile := departProfile s1 t
  let s2 := modTrain r.train (fun t => { t with
    profile := profile
    grant := some { zone := z, units := r.units, givenAt := s1.now, startedAt := none }
    state := .released }) s1
  let s3 := modArbiter z (fun a => { a with lastStop := some r.stop }) s2
  queueOrder (.depart r.train r.stop profile) s3

/-- The release timeout of a zone in force (R101, step 6). -/
def releaseTimeoutOf (s : State) (z : Nat) : Nat := ((tget s.lds.zones z).map Zone.releaseTimeout).getD 0

/-- The start window of a zone in force (R102). -/
def startWindowOf (s : State) (z : Nat) : Nat := ((tget s.lds.zones z).map Zone.startWindow).getD 0

/-- A chosen request is granted (R101); the section toward which a grant was returned is given. -/
def giveGrant (z : Nat) (r : Request) (s : State) : State × List Nat :=
  let s1 := modArbiter z (Arbiter.add
    { train := r.train, stop := r.stop, units := r.units, givenAt := s.now, startedAt := none,
      expiry := later s.now (releaseTimeoutOf s z) }) s
  let s2 := modTrain r.train (fun t => { t with causes := withoutCause .awaitGrant t.causes }) s1
  match getTrain s2 r.train with
  | none => (s2, [])
  | some t =>
    match mergeCheck s2 t with
    | .satisfied c => (release z r c t s2, [])
    | .wait e => (returnGrant z r.train e s2, (nextSect s2 t).toList)

/-- The starvation limit of a zone in force (R100). -/
def starvationOf (s : State) (z : Nat) : Nat := ((tget s.lds.zones z).map Zone.starvation).getD 0

/-- Rounds of grant selection over a zone's start list, at most `fuel` of them, until none gives a grant (R100). -/
def selectLoop (z : Nat) : Nat → State → State × List Nat
  | 0, s => (s, [])
  | fuel + 1, s =>
    match tget s.gate.arbiters z with
    | none => (s, [])
    | some a =>
      match a.choose (starvationOf s z) with
      | none => (s, [])
      | some r =>
        let s1 := modArbiter z (fun a => { a with starts := passOver (starvationOf s z) r a.starts }) s
        let p := giveGrant z r s1
        let q := selectLoop z fuel p.1
        (q.1, p.2 ++ q.2)

/-- Grant selection in a zone: each round takes one request out of the list, so as many rounds as it holds suffice (R100). -/
def select (z : Nat) (s : State) : State × List Nat :=
  match tget s.gate.arbiters z with
  | none => (s, [])
  | some a => selectLoop z a.starts.length s

/-! ## Requests (R96, R97) -/

/-- A waiting request of a train leaves its start list and AWAIT_GRANT its set; no selection runs (R97). -/
def withdrawRequest (n : Nat) (s : State) : State :=
  modTrain n (fun t => { t with causes := withoutCause .awaitGrant t.causes })
    { s with gate := { s.gate with arbiters := tmap s.gate.arbiters (fun _ a =>
        { a with starts := a.starts.filter (fun r => r.train ≠ n) }) } }

/-- The request rule for a train whose set is empty: MERGE_GAP, or a request at the tail of its zone's list; selection follows
when `sel` (R96, R103). -/
def requestRule (n : Nat) (sel : Bool) (s : State) : State × List Nat :=
  match getTrain s n with
  | none => (s, [])
  | some t =>
    match mergeCheck s t with
    | .wait e => (modTrain n (fun t => { t with causes := [.mergeGap], mergeGap := some e, state := .held }) s, [])
    | .satisfied _ =>
      match (nextSect s t).bind (sectZone s), t.atStop with
      | some z, some p =>
        let s1 := writeCauses n [.awaitGrant] s
        let s2 := modArbiter z (fun a => { a with starts := a.starts ++
          [{ train := n, stop := p, units := (tget s.lds.classes t.cls).getD 0, time := s.now, skipped := 0 }] }) s1
        if sel then select z s2 else (s2, [])
      | _, _ => (writeCauses n [] s, [])

/-! ## Withdrawal of a release (R103, R104) -/

/-- A RELEASED train's grant leaves the grant list and the record, the train being left with a set; then selection runs (R103,
R104). The section toward which the release stood comes first among those given. -/
def takeRelease (n : Nat) (causes : List Cause) (t : Train) (s : State) : State × List Nat :=
  match t.grant with
  | none => (writeCauses n causes s, [])
  | some g =>
    let s1 := modArbiter g.zone (Arbiter.drop (Grant.grantedTo n)) s
    let s2 := modTrain n (fun t => { t with grant := none, causes := causes, state := stateOf causes }) s1
    let p := select g.zone s2
    (p.1, (nextSect s t).toList ++ p.2)

/-- A release is withdrawn for causes found: DEPART_CANCEL, then the grant goes and selection runs (R104). -/
def withdrawRelease (n : Nat) (causes : List Cause) (t : Train) (s : State) : State × List Nat :=
  match t.atStop with
  | some p => takeRelease n causes t (queueOrder (.departCancel n p) s)
  | none => takeRelease n causes t s

/-! ## Evaluation (R94) -/

/-- The evaluation of one train, taken whole (R94); `sel` is clear after a release timeout (R103). -/
def evaluate (n : Nat) (sel : Bool) (s : State) : State × List Nat :=
  match getTrain s n with
  | none => (s, [])
  | some t =>
    if !t.standing then (s, [])
    else
      let cs := freshCauses s t
      if t.state = .released then (if cs.isEmpty then (s, []) else withdrawRelease n cs t s)
      else if cs.isEmpty then requestRule n sel (modTrain n (fun t => { t with causes := [] }) s)
      else if cs.contains .awaitGrant && cs ≠ [.awaitGrant] then
        (writeCauses n (withoutCause .awaitGrant cs) (withdrawRequest n s), [])
      else (writeCauses n cs s, [])

/-- Trains evaluated one after another. -/
def evaluateEach : List Nat → State → State × List Nat
  | [], s => (s, [])
  | n :: r, s =>
    let p := evaluate n true s
    let q := evaluateEach r p.1
    (q.1, p.2 ++ q.2)

/-- Train numbers in the order of their arrival running counts, earliest first, then rising (R94). -/
def byArrival (now : Count) (l : Table Train) : List Nat :=
  (sortBy (fun a b => decide ((now - b.2.arrCount).toNat ≤ (now - a.2.arrCount).toNat)) l).map Prod.fst

/-- Every standing train whose next link lies in section `x` is evaluated (R94). -/
def evaluateToward (x : Nat) (s : State) : State × List Nat :=
  evaluateEach (byArrival s.now (s.trt.trains.filter (fun p => p.2.standing && nextSect s p.2 = some x))) s

/-- Every standing train at stop point `p` is evaluated (R94). -/
def evaluateAt (p : Nat) (s : State) : State × List Nat :=
  evaluateEach (byArrival s.now (s.trt.trains.filter (fun q => q.2.standing && q.2.atStop = some p))) s

/-- Some train is RELEASED toward section `x` (R125). -/
def releasedToward (s : State) (x : Nat) : Bool :=
  s.trt.trains.any (fun p => p.2.state = .released && nextSect s p.2 = some x)

/-! ## Arrivals and departures at the gate (R63, R95, R102, R105) -/

/-- A train is handed to the gate at an arrival: a new dwell watch, no MERGE_GAP left over, then its evaluation (R63, R95). -/
def gateArrive (n : Nat) (s : State) : State × List Nat :=
  evaluate n true (modTrain n (fun t => { t with
    causes := if reached s.now t.dwellExpiry then [] else [.dwell]
    mergeGap := none }) s)

/-- A train has gone without release: its request and timers are dropped (R67, R95, R97). -/
def gateGone (n : Nat) (s : State) : State :=
  modTrain n (fun t => { t with causes := [], mergeGap := none }) (withdrawRequest n s)

/-- A STARTED grant of train `n` in zone `z` ends: its units are returned, the record's grant field is cleared where it names it,
and selection runs (R102). -/
def endStarted (z n : Nat) (s : State) : State × List Nat :=
  let s1 := modArbiter z (Arbiter.drop (Grant.startedBy n)) s
  let s2 := modTrain n (fun t => { t with
    grant := match t.grant with
      | some g => if g.zone = z && g.startedAt.isSome then none else some g
      | none => none }) s1
  select z s2

/-- The zones in which train `n` holds a grant that satisfies `p`. -/
def zonesHolding (s : State) (p : Grant → Bool) : List Nat :=
  (s.gate.arbiters.filter (fun a => a.2.grants.any p)).map Prod.fst

/-- Selection in a list of zones, one after another. -/
def selectEach : List Nat → State → State × List Nat
  | [], s => (s, [])
  | z :: r, s =>
    let p := select z s
    let q := selectEach r p.1
    (q.1, p.2 ++ q.2)

/-- The STARTED grants of train `n` in a list of zones end, as at their window ends (R102). -/
def endStartedEach (n : Nat) : List Nat → State → State × List Nat
  | [], s => (s, [])
  | z :: r, s =>
    let p := endStarted z n s
    let q := endStartedEach n r p.1
    (q.1, p.2 ++ q.2)

/-- A GRANTED grant becomes STARTED in its arbiter (R102). -/
def startGrant (z n : Nat) (dep : Count) (s : State) : State :=
  let window := startWindowOf s z
  modArbiter z (fun a => { a with grants := a.grants.map (fun g =>
    if g.grantedTo n then { g with startedAt := some dep, expiry := later dep window } else g) }) s

/-- The grant of a RELEASED train becomes STARTED at its departure; any earlier STARTED grant of the train ends (R102). -/
def gateDepart (n : Nat) (dep : Count) (s : State) : State × List Nat :=
  match (getTrain s n).bind Train.grant with
  | none => (s, [])
  | some g =>
    let old := zonesHolding s (Grant.startedBy n)
    let p := endStartedEach n old s
    let s1 := startGrant g.zone n dep p.1
    (modTrain n (fun t => { t with grant := some { g with startedAt := some dep } }) s1, p.2)

/-- Every grant that names train `n` ends, and selection runs in each zone concerned; its request and timers are dropped (R105,
TRAIN_LEAVE). All the grants end before the first selection, and the zones follow in rising number: a DESIGN CHOICE (log 36). -/
def gateLeave (n : Nat) (s : State) : State × List Nat :=
  let zones := zonesHolding s (fun g => g.train = n)
  let s1 := gateGone n s
  let s2 := { s1 with gate := { s1.gate with arbiters := tmap s1.gate.arbiters (fun _ a => a.drop (fun g => g.train = n)) } }
  selectEach zones (modTrain n (fun t => { t with grant := none }) s2)

/-- The zone's arbiter is given a capacity; a rise runs grant selection (R106). -/
def giveCapacity (z c : Nat) (s : State) : State × List Nat :=
  match tget s.gate.arbiters z with
  | none => (s, [])
  | some a =>
    let s1 := modArbiter z (fun a => { a with capacity := c }) s
    if a.capacity < c then select z s1 else (s1, [])

end Sys2Proof.Machine
end

