-- ==== Sys2Proof/Machine/TractionOps.lean ====
section
/-! DEFINITION. The Traction Controller's shared operations: changes of section state, isolation, energising, the proving-start test
and occupancy (R53, R112 to R125). -/

namespace Sys2Proof.Machine

/-- A section record changed. -/
def modRec (x : Nat) (f : SectRec → SectRec) (s : State) : State :=
  { s with trc := { s.trc with sections := tmod s.trc.sections x f } }

/-- The record of a section. -/
def getRec (s : State) (x : Nat) : Option SectRec := tget s.trc.sections x

/-- The proving-start test passes (R125; with a settle time of 0, log 37). -/
def provingReady (s : State) (x : Nat) (r : SectRec) : Bool :=
  r.state = .live && 1 ≤ r.owed && occupancyOf s x = 0 && !releasedToward s x && r.settle.all (reached s.now)

/-- The proving-start test of a section, and the proving it starts (R125). No train is RELEASED toward the section then, so the
evaluation that follows withdraws no release. -/
def provingTest (x : Nat) (s : State) : State :=
  match getRec s x, tget s.lds.sections x with
  | some r, some f =>
    if provingReady s x r then
      (evaluateToward x
        (modRec x (fun r => { r with
            state := .proving
            provingOrdered := some f.provingDuration
            timeout := some (later s.now f.provingTimeout) })
          (queueOrder (.prove x f.provingDuration) s))).1
    else s
  | _, _ => s

/-- After an operation of the gate, the test is made for each section toward which a release was withdrawn or returned (R125,
log 15). -/
def tested (p : State × List Nat) : State := p.2.foldl (fun s x => provingTest x s) p.1

/-- The gate is told of a change of a section that its causes depend on (R94, R112). -/
def sectionChanged (x : Nat) (s : State) : State := tested (evaluateToward x s)

/-- An isolation starts: BREAKER OPEN, the isolate timeout, ISOLATING; a pending order and a proving end with it (R117). -/
def startIsolation (x : Nat) (s : State) : State :=
  match tget s.lds.sections x with
  | none => s
  | some f =>
    sectionChanged x
      (modRec x (fun r => { r with
          state := .isolating
          order := some .opening
          pending := none
          timeout := some (later s.now f.isolateTimeout)
          interval := none
          provingOrdered := none })
        (queueOrder (.breaker x .opening) s))

/-- An energise starts: BREAKER CLOSE, the energise timeout, ENERGISING (R114). -/
def startEnergise (x : Nat) (s : State) : State :=
  match tget s.lds.sections x with
  | none => s
  | some f =>
    sectionChanged x
      (modRec x (fun r => { r with
          state := .energising
          order := some .close
          pending := none
          lastEnergiseStart := some s.now
          timeout := some (later s.now f.energiseTimeout) })
        (queueOrder (.breaker x .close) s))

/-- The expiry of an interval begun now, in SERVICE with a non-zero proving interval (R124). -/
def newInterval (s : State) (f : SectionFields) : Option Count :=
  if s.inService && f.provingInterval ≠ 0 then some (later s.now f.provingInterval) else none

/-- A section becomes LIVE from a close: its last energise complete, settle watch and interval (R115, R124, R125). -/
def becomeLive (f : SectionFields) (s : State) (r : SectRec) : SectRec :=
  { r with
    state := .live
    timeout := none
    lastEnergiseDone := some s.now
    settle := some (later s.now f.settleTime)
    settleArmed := true
    interval := newInterval s f }

/-- A section becomes DEAD from an isolation, a failed energise or an uncommanded open (R111). -/
def becomeDead (now : Count) (r : SectRec) : SectRec :=
  { r with state := .dead, lastIsolated := some now, timeout := none, interval := none, provingOrdered := none, pending := none }

/-- The Train Table tells of a section's count: at 0 a pending isolate-on-clear is taken, then the test of R125 is made (R53,
R119). -/
def occupancyNotice (x : Nat) (s : State) : State :=
  if occupancyOf s x ≠ 0 then s
  else
    match getRec s x with
    | none => s
    | some r =>
      provingTest x (if r.state = .live && r.pending = some .isolateOnClear then startIsolation x s else s)

/-- One occupant more, or one less, in a section. -/
def addOccupant (x : Nat) (s : State) : State :=
  { s with trt := { s.trt with occupancy := tmod s.trt.occupancy x (· + 1) } }

def takeOccupant (x : Nat) (s : State) : State :=
  { s with trt := { s.trt with occupancy := tmod s.trt.occupancy x (· - 1) } }

/-- The counts change as a train goes from one section to another; the Traction Controller is then told of each count that has
changed (R53). -/
def moveOccupant (a b : Option Nat) (s : State) : State :=
  if a = b then s
  else
    let s1 := match a with | some x => takeOccupant x s | none => s
    let s2 := match b with | some y => addOccupant y s1 | none => s1
    let s3 := match a with | some x => occupancyNotice x s2 | none => s2
    match b with | some y => occupancyNotice y s3 | none => s3

/-- The capacity of a zone in a feed state (R131). -/
def capacityIn (z : Zone) : FeedState → Nat
  | .normal => z.normalCap
  | .tieFed => z.tieCap
  | .unfed => 0

/-- A zone's capacity is derived again and given to its arbiter (R106, R131). -/
def rederiveCapacity (z : Nat) (s : State) : State :=
  match tget s.lds.zones z, tget s.trc.zones z with
  | some f, some r =>
    tested (giveCapacity z (capacityIn f r.feed)
      { s with trc := { s.trc with zones := tmod s.trc.zones z (fun r => { r with capacity := capacityIn f r.feed }) } })
  | _, _ => s

end Sys2Proof.Machine
end

