-- ==== Sys2Proof/Machine/EffectOps.lean ====
section
/-! DEFINITION. What incidents do: effective actions told to the Traction Controller, the Departure Gate and the Regulator, whole
raises, lifting and removal, and the escalation channels (R123, R137, R140, R144 to R149, R153, R154). -/

namespace Sys2Proof.Machine

/-! ## Effective actions (R149) -/

/-- The Traction Controller's act on a change into DE_ENERGISE (R123). -/
def deEnergise (x : Nat) (s : State) : State :=
  match getRec s x with
  | none => s
  | some r =>
    match r.state with
    | .energising | .live | .proving => startIsolation x s
    | .dead => modRec x (fun r => { r with pending := none }) s
    | .isolating | .earthed => s

/-- The Regulator's act on a change of effective action (R82). -/
def restrictChanged (x : Nat) (old new : Action) (s : State) : State :=
  if new = .restrict then restrictBegan x s
  else if old = .restrict then restrictEnded x s
  else s

/-- A change of a section's effective action is told to the three blocks (R149): the Traction Controller isolates, then the gate
evaluates, then the Regulator acts. R82 and R149 give the last two no order; the model's is a DESIGN CHOICE (log 35). -/
def tellEffect (s : State) (c : Nat × Action × Action) : State :=
  let s1 := if c.2.2 = .deEnergise then deEnergise c.1 s else s
  restrictChanged c.1 c.2.1 c.2.2 (tested (evaluateToward c.1 s1))

/-- The changes of effective action among some sections, with the old and the new action, in rising section number (DESIGN CHOICE,
log 39). -/
def effectChanges (s : State) (l : List Nat) : List (Nat × Action × Action) :=
  (s.inm.effective.filter (fun p => l.contains p.1 && computeAction s.inm p.1 ≠ p.2)).map
    (fun p => (p.1, p.2, computeAction s.inm p.1))

/-- The effective actions of some sections are recomputed and the changes told (R144, R149). R144 and R149 leave the order among several
sections open: all new actions are written first, then the blocks are told section by section (DESIGN CHOICE, log 39). -/
def recomputeEffects (l : List Nat) (s : State) : State :=
  (effectChanges s l).foldl tellEffect
    { s with inm := { s.inm with effective := tmap s.inm.effective (fun x a => if l.contains x then computeAction s.inm x else a) } }

/-! ## Raising (R144) -/

/-- A whole raise: the table, the ANC, effective actions, LINE STOP and attention (R144). -/
def raiseIncident (r : Raise) (s : State) : State × RaiseOutcome :=
  let p := raiseTold r s
  (refreshIncidents (recomputeEffects (outcomeTargets p.1.inm p.2) p.1), p.2)

/-- A raise of one of the internal sources (R140). -/
def raiseInternal (k : SourceKind) (loc : IncidentLoc) (v : Severity) (a : Action) (targets : List Nat) (m : Mode)
    (condition : Bool) (s : State) : State :=
  (raiseIncident
    { source := { kind := k, number := 0 }, loc := loc, severity := v, action := a, targets := targets, mode := m,
      condition := condition } s).1

/-- SECTION_FAULT (R140). -/
def raiseSectionFault (x : Nat) : State → State := raiseInternal .sectionFault (.sect x) .major .hold [x] .latched false

/-- PROVING_LOW (R140). -/
def raiseProvingLow (x : Nat) : State → State := raiseInternal .provingLow (.sect x) .major .hold [x] .latched false

/-- PROVING_TIMEOUT (R140). -/
def raiseProvingTimeout (x : Nat) : State → State := raiseInternal .provingTimeout (.sect x) .minor .none [x] .perCycle false

/-- The defined sections of a zone, rising. -/
def zoneSections (s : State) (z : Nat) : List Nat := (s.lds.sections.filter (fun p => p.2.zone = z)).map Prod.fst

/-- FEED_LOST (R140). -/
def raiseFeedLost (z : Nat) (s : State) : State :=
  raiseInternal .feedLost (.zone z) .major .hold (normSet 24 (zoneSections s z)) .perCycle true s

/-- UNRELEASED_DEPARTURE (R140). -/
def raiseUnreleased (p : Nat) (s : State) : State :=
  raiseInternal .unreleasedDeparture (.stop p) .minor .none (normSet 24 (stopSect s p).toList) .perCycle false s

/-- The condition of the entry with a source and location becomes absent (R137, R139, R140). -/
def endCondition (src : Source) (loc : IncidentLoc) (s : State) : State :=
  { s with inm := { s.inm with incidents := tmap s.inm.incidents (fun _ i =>
      if i.source = src && i.loc = loc then { i with condition := false } else i) } }

/-! ## Trip inputs (R137) -/

/-- A trip-input record changed. -/
def modInput (n : Nat) (f : TripInput → TripInput) (s : State) : State :=
  { s with inm := { s.inm with inputs := vmod s.inm.inputs n f } }

/-- The raise of a trip input with captured settings (R137). -/
def tripRaise (n : Nat) (c : Captured) (condition : Bool) : Raise :=
  { source := { kind := .trip, number := n }, loc := .none, severity := c.severity, action := c.action, targets := c.targets,
    mode := c.mode, condition := condition }

/-- A trip input qualifies: ACTIVE, settings captured, in force, its incident raised; the sections of its old and new settings
are concerned (R137). -/
def qualify (n : Nat) (s : State) : State :=
  match s.inm.inputs[n]? with
  | none => s
  | some t =>
    let s1 := modInput n (fun t => { t with
      qual := .active, qualCycles := 0, captured := some t.set, inForce := true }) s
    let p := raiseTold (tripRaise n t.set true) s1
    let s2 := modInput n (fun t => { t with entry := p.2.number }) p.1
    let before := ((t.captured.map Captured.targets).getD [])
    refreshIncidents (recomputeEffects (outcomeTargets s2.inm p.2 ++ t.set.targets ++ before) s2)

/-- A trip input goes active: QUALIFYING, or qualified at once with a qualification time of 0 (R135). -/
def inputActive (n : Nat) (s : State) : State :=
  match s.inm.inputs[n]? with
  | none => s
  | some t =>
    if t.qual ≠ .idle then s
    else if t.qualTime = 0 then qualify n s
    else modInput n (fun t => { t with qual := .qualifying, qualCycles := 0, qualLimit := t.qualTime * Config.msCycles }) s

/-- A trip input goes inactive: IDLE; the condition of an ACTIVE input's entry becomes absent (R135, R137). -/
def inputInactive (n : Nat) (s : State) : State :=
  match s.inm.inputs[n]? with
  | none => s
  | some t =>
    let s1 := modInput n (fun t => { t with qual := .idle, qualCycles := 0 }) s
    if t.qual = .active then endCondition { kind := .trip, number := n } .none s1 else s1

/-! ## Escalation channels (R153, R154) -/

/-- An escalation channel changed. -/
def modChannel (c : Nat) (f : Channel → Channel) (s : State) : State :=
  { s with inm := { s.inm with channels := vmod s.inm.channels c f } }

/-- The raise of channel `c` at stop point `p`: the targets are those of `p` under the scope of kind `k` (R153). -/
def channelRaise (s : State) (c : Nat) (ch : Channel) (p k : Nat) : Raise :=
  { source := { kind := .escalation, number := c }, loc := .stop p, severity := ch.severity, action := ch.action,
    targets := scopeTargets s ((s.inm.kinds[k]?.map DetectionKind.scope).getD .stopSection) p, mode := ch.mode, condition := false }

/-- A raise made or merged an entry: it is the channel's open incident and the count returns to 0 (R153). -/
def noteChannelRaise (c : Nat) (o : RaiseOutcome) (s : State) : State :=
  match o.number with
  | some n => modChannel c (fun ch => { ch with openIncident := some n, count := 0 }) s
  | none => s

/-- Channel `c` counts a detection at stop point `p`, raising at its period (R153); the outcome of a raise is given. -/
def countDetection (c p : Nat) (s : State) : State × Option RaiseOutcome :=
  let s1 := modChannel c (fun ch => { ch with lastStop := some p, count := min ch.period (ch.count + 1) }) s
  match s1.inm.channels[c]? with
  | none => (s1, none)
  | some ch =>
    if ch.count = ch.period && ch.openIncident.isNone then
      let q := raiseIncident (channelRaise s1 c ch p ch.kind) s1
      (noteChannelRaise c q.2 q.1, some q.2)
    else (s1, none)

/-! ## Lifting and removal (R146, R147) -/

/-- The table has room (R142). -/
def hasRoom (s : State) : Bool := s.inm.incidents.length < Config.maxIncidents

/-- A raise on the table alone, for the entries made at a removal; the number of the entry is given (R147, steps 4 and 5). -/
def raiseSilent (r : Raise) (s : State) : State × Option Nat :=
  let t := raiseTable s.now r s.inm
  ({ s with inm := t.1 }, t.2.number)

/-- Step 4 of R147 for trip input `n`: in force without an entry, it is given one while there is room. -/
def giveEntry (q : State × List Nat) (n : Nat) : State × List Nat :=
  match q.1.inm.inputs[n]? with
  | none => q
  | some t =>
    match t.captured with
    | none => q
    | some c =>
      if t.inForce && t.entry.isNone && hasRoom q.1 then
        let p := raiseSilent (tripRaise n c (t.qual = .active)) q.1
        (modInput n (fun t => { t with entry := p.2 }) p.1, q.2 ++ p.2.toList)
      else q

/-- Step 5 of R147 for channel `c`: at its period with no open incident, it raises again while there is room (R154). Its last stop
point may have been removed in SETUP: then the incident is located there with no targets (DESIGN CHOICE, log 42). -/
def reRaise (q : State × List Nat) (c : Nat) : State × List Nat :=
  match q.1.inm.channels[c]? with
  | none => q
  | some ch =>
    match ch.lastStop with
    | none => q
    | some p =>
      if 1 ≤ ch.period && ch.count = ch.period && ch.openIncident.isNone && hasRoom q.1 then
        let r := raiseSilent (channelRaise q.1 c ch p ch.kind) q.1
        (match r.2 with
          | some n => modChannel c (fun ch => { ch with openIncident := some n, count := 0 }) r.1
          | none => r.1, q.2 ++ r.2.toList)
      else q

/-- The target sections of some entries. -/
def targetsOf (m : Inm) (l : List Nat) : List Nat := l.flatMap (fun n => ((tget m.incidents n).map Incident.targets).getD [])

/-- Steps 1 to 3 of R147: the entry leaves the table, its trip input's entry number and its channel's open incident are
cleared. -/
def dropEntry (n : Nat) (i : Incident) (s : State) : State :=
  let s1 := { s with inm := { s.inm with
    incidents := tdel s.inm.incidents n
    channels := s.inm.channels.map (fun ch => if ch.openIncident = some n then { ch with openIncident := none } else ch) } }
  if i.source.kind = .trip then modInput i.source.number (fun t => { t with entry := none, inForce := false }) s1 else s1

/-- Tell the ANC of new entries in order (R147, step 6). -/
def tellNewEach (l : List Nat) (s : State) : State := l.foldl (fun s n => tellOutcome (.new n) s) s

/-- The removal of a lifted and acknowledged entry (R147). -/
def removeIncident (n : Nat) (s : State) : State :=
  match tget s.inm.incidents n with
  | none => s
  | some i =>
    let q4 := (List.range 16).foldl giveEntry (dropEntry n i s, [])
    let q5 := (List.range 16).foldl reRaise q4
    let s6 := tellNewEach q5.2 (tellRemoval n q5.1)
    refreshIncidents (recomputeEffects (i.targets ++ targetsOf s6.inm q5.2) s6)

/-- An ACTIVE entry becomes LIFTED; its trip input leaves force with it (R137, R146, R148). -/
def liftEntry (n : Nat) (i : Incident) (s : State) : State :=
  let s1 := { s with inm := { s.inm with incidents := tmod s.inm.incidents n (fun i => { i with state := .lifted }) } }
  if i.source.kind = .trip then modInput i.source.number (fun t => { t with inForce := false }) s1 else s1

/-- An entry in force is lifted: LIFTED if ACTIVE, removed if ACKED (R146, R148). -/
def liftIncident (n : Nat) (s : State) : State :=
  match tget s.inm.incidents n with
  | none => s
  | some i =>
    match i.state with
    | .active => refreshIncidents (recomputeEffects i.targets (liftEntry n i s))
    | .acked => removeIncident n s
    | .lifted => s

/-- A PER_CYCLE entry in force whose condition is absent (R146). -/
def dueLift (i : Incident) : Bool := i.mode = .perCycle && i.inForce && !i.condition

/-- A PER_CYCLE trip input in force without an entry whose input is not ACTIVE (R137, R146). -/
def dueInput (t : TripInput) : Bool :=
  t.inForce && t.entry.isNone && t.qual ≠ .active && ((t.captured.map Captured.mode) = some .perCycle)

/-- The lifting at a whole second of the running count (R146): inputs without an entry leave force, ACTIVE entries are LIFTED, then
ACKED ones are removed in rising number (log 25). -/
def perCycleLift (s : State) : State :=
  let inputs := (s.inm.inputs.toList.filter dueInput).flatMap (fun t => ((t.captured.map Captured.targets).getD []))
  let due := s.inm.incidents.filter (fun p => dueLift p.2)
  let active := due.filter (fun p => p.2.state = .active)
  let acked := due.filter (fun p => p.2.state = .acked)
  let s1 := { s with inm := { s.inm with inputs := s.inm.inputs.map (fun t => if dueInput t then { t with inForce := false } else t) } }
  let s2 := active.foldl (fun s p => liftEntry p.1 p.2 s) s1
  let s3 := acked.foldl (fun s p => removeIncident p.1 s) s2
  refreshIncidents (recomputeEffects (inputs ++ active.flatMap (fun p => p.2.targets)) s3)

end Sys2Proof.Machine
end

