-- ==== Sys2Proof/Machine/Rights.lean ====
section
/-! DEFINITION. The Desk Rights Table's check and the dispatch of a request: form, rights, owner, reply (R8, R176, R177, R184). -/

namespace Sys2Proof.Machine

/-! ## Areas (R8, R142) -/

/-- The area of a station. -/
def stationArea (s : State) (n : Nat) : Option Nat := (tget s.lds.stations n).map StationFields.area

/-- The area of a stop point: that of its station. -/
def stopArea (s : State) (n : Nat) : Option Nat := (tget s.lds.stops n).bind (fun p => stationArea s p.station)

/-- The area of a section. -/
def sectArea (s : State) (n : Nat) : Option Nat := (tget s.lds.sections n).map SectionFields.area

/-- The area of a link: that of its section. -/
def linkArea (s : State) (n : Nat) : Option Nat := (linkSect s n).bind (sectArea s)

/-- The area of a zone. -/
def zoneArea (s : State) (n : Nat) : Option Nat := (tget s.lds.zones n).map Zone.area

/-- The area of a merge: that of its merge stop point. -/
def mergeArea (s : State) (n : Nat) : Option Nat := (tget s.lds.merges n).bind (fun m => stopArea s m.stop)

/-- The area of a location of a train. -/
def locArea (s : State) : Location → Option Nat
  | .stop n => stopArea s n
  | .link n => linkArea s n
  | .none => none

/-- The area of a train; an unlocated train has none. -/
def trainArea (s : State) (n : Nat) : Option Nat := (getTrain s n).bind (fun t => locArea s t.loc)

/-- The area of an incident: that of its stop point, section or zone, and for location none or a trip that of the lowest-numbered
defined section in its target set (R142). -/
def incidentArea (s : State) (i : Incident) : Option Nat :=
  match i.loc with
  | .stop n => stopArea s n
  | .sect n => sectArea s n
  | .zone n => zoneArea s n
  | .trip _ => i.targets.findSome? (sectArea s)
  | .none => i.targets.findSome? (sectArea s)

/-- The area of the incident numbered `n`. -/
def incidentAreaOf (s : State) (n : Nat) : Option Nat := (tget s.inm.incidents n).bind (incidentArea s)

/-! ## The check (R174, R176) -/

/-- The level of a desk in an area in force. -/
def levelOf (s : State) (desk area : Nat) : Level := ((s.drt.inForce[desk]?).bind (fun v => v[area]?)).getD .none

/-- A desk holds a level in an area: its level there is that one or a higher (R174). -/
def holds (s : State) (desk : Nat) (l : Level) (area : Nat) : Bool := Level.code l ≤ Level.code (levelOf s desk area)

/-- A desk is FULL in all 16 areas. -/
def fullEverywhere (s : State) (desk : Nat) : Bool := (List.range 16).all (holds s desk .full)

/-- A desk holds a level where `area` is given, or is FULL everywhere where it is not (R8, R176, R188). -/
def holdsAt (s : State) (desk : Nat) (l : Level) (area : Option Nat) : Bool :=
  match area with
  | some a => holds s desk l a
  | none => fullEverywhere s desk

/-- What a request needs (R176): a level in its target's area, a level in any one area, a level in each of several areas, FULL in all
areas, or no check by the DRT. An area that is `none` makes the need line-wide. -/
inductive Need where
  | inArea (l : Level) (area : Option Nat)
  | anyArea (l : Level)
  | several (l : Level) (areas : List (Option Nat))
  | lineWide
  | unchecked
  deriving DecidableEq, Repr

/-- The lowest area in which a desk is below FULL (R177). -/
def firstBelowFull (s : State) (desk : Nat) : Option Nat := (List.range 16).find? (fun a => !holds s desk .full a)

/-- What is lacking for a need in one place: the level and the area (R177). -/
def lackingAt (s : State) (desk : Nat) (l : Level) (area : Option Nat) : Option (Level × Option Nat) :=
  match area with
  | some a => if holds s desk l a then none else some (l, some a)
  | none => (firstBelowFull s desk).map (fun a => (.full, some a))

/-- What a desk lacks for a need: the level and the area, `none` for ANY; or nothing (R176, R177). -/
def lacking (s : State) (desk : Nat) : Need → Option (Level × Option Nat)
  | .inArea l area => lackingAt s desk l area
  | .anyArea l => if (List.range 16).any (holds s desk l) then none else some (l, none)
  | .several l areas => areas.findSome? (lackingAt s desk l)
  | .lineWide => lackingAt s desk .full none
  | .unchecked => none

/-- The line time, absent while the clock is UNSET (R177). -/
def State.lineTime (s : State) : Option (Nat × Nat) := if s.clockRunning then some (s.clock.timeOfDay, s.clock.dayOfWeek) else none

/-- A RIGHTS refusal is recorded and RIGHTS_REFUSAL reported (R177). -/
def recordRefusal (desk : Nat) (k : ReqKind) (level : Level) (area : Option Nat) (s : State) : State :=
  report .rightsRefusal
    { s with drt := { s.drt with
        lastRefusal := some { desk := desk, kind := k, area := area, level := level, count := s.now, time := s.lineTime } } }

/-- The reply to a request refused with RIGHTS (R177). -/
def refuseRights (level : Level) (area : Option Nat) : Reply := .refuse .rights { Detail.empty with rights := some (level, area) }

/-! ## Dispatch (R183, R184) -/

/-- The receiver has taken a whole frame and hunts again (R183). -/
def frameTaken (s : State) : State := { s with link := { s.link with receiver := .hunting, gapCycles := 0, frame := [] } }

/-- A frame cannot be taken: its desk is above 7, or 4 requests are outstanding (R183, R184). -/
def turnedAway (s : State) (h : Hdr) : Bool := 7 < h.desk || Config.maxOutstanding ≤ s.link.outstanding.length

/-- The dispatch of a request frame of a request kind: form, rights, the owner, and the reply (R184, R185). -/
def request (k : ReqKind) (h : Hdr) (need : Need) (owner : State → State × Reply) (s : State) : State :=
  if !s.linkUp then s
  else if turnedAway s h then discardFrame s
  else if !h.formed then putReply h.tag (refuse .format) (frameTaken s)
  else
    match lacking s h.desk need with
    | some (level, area) => putReply h.tag (refuseRights level area) (recordRefusal h.desk k level area (frameTaken s))
    | none =>
      let p := owner (frameTaken s)
      putReply h.tag p.2 p.1

/-- The stop points, sections or stations named, for need lists: the area of each. -/
def areasOf (f : Nat → Option Nat) (l : List Nat) : List (Option Nat) := l.map f

end Sys2Proof.Machine
end

