-- ==== Sys2Proof/Machine/TrainOps.lean ====
section
/-! DEFINITION. The Train Table's shared operations: time stamps, matching an arrival to a trip, the common arrival processing, and
departures (R55, R59 to R67). -/

namespace Sys2Proof.Machine

/-! ## Time stamps (R59) -/

/-- When a report says its event happened: the clamped stamp and its running count, and whether the clamp acted (R59). -/
structure Moment where
  svc : Option Nat
  count : Count
  clamped : Bool
  deriving DecidableEq, Repr

/-- The receipt of a request as a moment. -/
def receipt (s : State) : Moment := { svc := if s.clockRunning then some s.svc else none, count := s.now, clamped := false }

/-- The moment a time stamp gives (R59). -/
def momentOf (s : State) : Option Nat → Moment
  | none => receipt s
  | some stamp =>
    if s.clockRunning then
      let d := svcDiff stamp s.svc
      let c := clampInt (-600) 0 d
      { svc := some (((s.svc : Int) + c) % 864000).toNat, count := s.now + BitVec.ofInt 32 c, clamped := decide (d ≠ c) }
    else receipt s

/-! ## Trips of trains (R55 to R57, R61, R64) -/

/-- The best candidate so far with its d, and what one candidate makes of it (R55). -/
def considerTrip (p : Nat) (q : State × Option (Int × Nat)) (n : Nat) : State × Option (Int × Nat) :=
  let r := readEntry n 0 q.1
  match (r.2.bind EntryView.coded).bind (fun e => if e.stop = p then e.sd else none) with
  | none => (r.1, q.2)
  | some sd =>
    let d := svcDiff sd r.1.svc
    if d < -(r.1.trt.grace : Int) then (r.1, q.2)
    else if q.2.all (fun b => d < b.1) then (r.1, some (d, n))
    else (r.1, q.2)

/-- The trip picked for a train that enters with none named, in store order (R55, log 18). -/
def pickTrip (p : Nat) (s : State) : State × Option Nat :=
  if s.clockRunning then
    let q := ((s.store.trips.filter (fun t => t.run = .planned && validToday s t)).map Trip.number).foldl (considerTrip p) (s, none)
    (q.1, q.2.map Prod.snd)
  else (s, none)

/-- A train joins trip `m` at entry `i`: the run starts, the entry is CALLED, and the record names both (R40, R56, R57, R64). -/
def joinTrip (n m i : Nat) (s : State) : State :=
  modTrain n (fun t => { t with trip := some { trip := m, index := i } }) (callEntry m i (startRun m n i s))

/-- A train becomes unscheduled. -/
def unschedule (n : Nat) (s : State) : State := modTrain n (fun t => { t with trip := none }) s

/-- How an arrival of a train taken as running matches its trip (R61). -/
inductive Match where
  | normal
  | skipped (passed : Nat)
  | offTrip
  | unscheduled
  deriving DecidableEq, Repr

/-- An arrival at stop point `p` is matched against the train's trip (R61). -/
def matchArrival (n p : Nat) (s : State) : State × Match :=
  match (getTrain s n).bind Train.trip with
  | none => (s, .unscheduled)
  | some r =>
    let q := findStopFrom r.trip p (r.index + 1) s
    match q.2 with
    | none => (unschedule n (endRun r.trip .done q.1), .offTrip)
    | some j =>
      (modTrain n (fun t => { t with trip := some { r with index := j } })
          (callEntry r.trip j (skipEntries r.trip (r.index + 1) j q.1)),
        if j = r.index + 1 then .normal else .skipped (j - r.index - 1))

/-- The trip a train goes on with at its last stop: the next trip where R64's conditions hold, with the joining entry. R64 gives its
conditions no order, which decides whether the entries of a next trip that fails one of the first two are read: none is read then, a DESIGN
CHOICE (log 51). -/
def nextTripAt (ended p : Nat) (s : State) : State × Option (Nat × Nat) :=
  match (findTrip s ended).bind Trip.next with
  | none => (s, none)
  | some m =>
    match findTrip s m with
    | none => (s, none)
    | some t =>
      if t.run = .planned && s.clockRunning && validToday s t then
        let q := findStopFrom m p 0 s
        (q.1, q.2.map (fun i => (m, i)))
      else (s, none)

/-- At the last entry of a trip the run ends and the next trip is joined where it can be; the trip ended and the trip joined
(R64). -/
def lastStop (n p : Nat) (s : State) : State × Option Nat × Option Nat :=
  match (getTrain s n).bind Train.trip with
  | none => (s, none, none)
  | some r =>
    if r.index + 1 ≠ tripLength s r.trip then (s, none, none)
    else
      let q := nextTripAt r.trip p (endRun r.trip .done s)
      match q.2 with
      | none => (unschedule n q.1, some r.trip, none)
      | some (m, i) => (joinTrip n m i q.1, some r.trip, some m)

/-- The next link of a train at stop point `p`: from its trip's entries, or the stop point's default (R63, step 4; log 32). -/
def routeOf (n p : Nat) (s : State) : State × Option Nat :=
  match (getTrain s n).bind Train.trip with
  | none => (s, (tget s.lds.stops p).bind Stop.nextLink)
  | some r =>
    if r.index + 1 < tripLength s r.trip then
      let a := readEntry r.trip r.index s
      let b := readEntry r.trip (r.index + 1) a.1
      match a.2, b.2 with
      | some v, some w => (b.1, linkBetween b.1 v.stop w.stop)
      | _, _ => (b.1, none)
    else (s, none)

/-- The next link of a train is set (R63, step 4). -/
def setRoute (n p : Nat) (s : State) : State :=
  let q := routeOf n p s
  modTrain n (fun t => { t with nextLink := q.2 }) q.1

/-! ## Arrivals (R62, R63) -/

/-- What an arrival came to, for the reply: the dwell clamp, the trip ended and the trip joined. -/
structure Arrived where
  clamp : Clamp
  ended : Option Nat
  joined : Option Nat
  deriving DecidableEq, Repr

/-- The section a train is counted in. -/
def trainSect (s : State) (n : Nat) : Option Nat := (getTrain s n).bind (fun t => locSect s t.loc)

/-- A train has gone without a departure being taken: its request is dropped, a GRANTED grant is withdrawn with no DEPART_CANCEL, and it
is taken as RUNNING (R62, R105). -/
def missedDeparture (n : Nat) (s : State) : State :=
  match getTrain s n with
  | none => s
  | some t =>
    let q := if t.state = .released then takeRelease n [] t (gateGone n s) else (gateGone n s, [])
    tested (modTrain n (fun t => { t with state := .running, causes := [] }) q.1, q.2)

/-- The common arrival processing of a train taken as RUNNING, its trip matched (R63). -/
def arrive (n p : Nat) (m : Moment) (s : State) : State × Arrived :=
  let s1 := moveOccupant (trainSect s n) (stopSect s p)
    (modTrain n (fun t => { t with loc := .stop p, arrSvc := m.svc, arrCount := m.count }) s)
  let s2 := modTrain n (fun t => { t with grant := none, predicted := none }) s1
  let r3 := lastStop n p s2
  let r5 := regulateArrival n p (setRoute n p r3.1)
  let s6 := modTrain n (fun t => { t with state := .dwelling }) r5.1
  let s7 := queueOrder (.dwell n p (((getTrain s6 n).map Train.dwell).getD 0)) s6
  (tested (gateArrive n s7), { clamp := r5.2, ended := r3.2.1, joined := r3.2.2 })

/-! ## Departures (R66, R67) -/

/-- Where a departing train is then: on its next link, or on none. -/
def departedTo (t : Train) : Location :=
  match t.nextLink with
  | some l => .link l
  | none => .none

/-- A train leaves its stop point: RUNNING on its next link, with the occupancy moved (R66 step 2, R67 step 2). -/
def setRunning (n : Nat) (t : Train) (s : State) : State :=
  moveOccupant (locSect s t.loc) (locSect s (departedTo t))
    (modTrain n (fun t => { t with state := .running, causes := [], loc := departedTo t }) s)

/-- The Sd of the entry at a train's stop index, read and checked (R86). -/
def readSd (t : Train) (s : State) : State × Option Nat :=
  match t.trip with
  | none => (s, none)
  | some r =>
    let q := readEntry r.trip r.index s
    (q.1, (q.2.bind EntryView.coded).bind EntryFields.sd)

/-- The prediction of a released departure over its link (R85). -/
def departPrediction (s : State) (t : Train) (m : Moment) : Option Prediction :=
  (nextLinkOf s t).map (fun l =>
    { count := later m.count (runTime l (departProfile s t))
      svc := m.svc.map (fun v => (v + runTime l (departProfile s t)) % 864000) })

/-- The stop point an approach announcement names: that of the trip's last entry, or the far end for an unscheduled train (R169). -/
def destination (t : Train) (q : Nat) (s : State) : State × Nat :=
  match t.trip with
  | none => (s, q)
  | some r =>
    let v := readEntry r.trip (tripLength s r.trip - 1) s
    (v.1, (v.2.map EntryView.stop).getD q)

/-- Step 4 of R66: the approach announcement. The trip's last entry is read only for an entry that is queued (R169). -/
def approachOf (n : Nat) (t : Train) (p : Option Prediction) (s : State) : State :=
  match nextLinkOf s t, p with
  | some l, some p =>
    match approachLead l.toStop s with
    | none => s
    | some (st, lead) =>
      let d := destination t l.toStop s
      (joinQueue st (approachEntry s.now s.anc.approach n d.2 lead p) d.1).1
  | _, _ => s

/-- A grant of train `n` in zone `z` is STARTED with its window already over. -/
def windowOver (s : State) (z n : Nat) : Bool :=
  (tget s.gate.arbiters z).any (fun a => a.grants.any (fun g => g.startedBy n && reached s.now g.expiry))

/-- After a released departure, a grant whose window a clamped stamp has put in the past ends at once (R102). -/
def endLateWindow (n : Nat) (s : State) : State :=
  match (getTrain s n).bind Train.grant with
  | none => s
  | some g => if windowOver s g.zone n then tested (endStarted g.zone n s) else s

/-- A released departure of train `n` from stop point `p` (R66). -/
def departReleased (n p : Nat) (m : Moment) (t : Train) (s : State) : State :=
  let s2 := setRunning n t (tested (gateDepart n m.count s))
  let q := readSd t s2
  let s3 := writeHeadway n p m.count q.2 q.1
  let pr := departPrediction s3 t m
  endLateWindow n (approachOf n t pr (modTrain n (fun t => { t with predicted := pr }) s3))

/-- An unreleased departure of train `n` from stop point `p` (R67, log 33). -/
def departUnreleased (n p : Nat) (t : Train) (s : State) : State :=
  raiseUnreleased p (setRunning n t (modTrain n (fun t => { t with predicted := none }) (gateGone n s)))

/-! ## Leaving (R68) -/

/-- The record of a train is removed and its occupant taken (R53, R68). -/
def removeTrain (n : Nat) (s : State) : State :=
  moveOccupant (trainSect s n) none { s with trt := { s.trt with trains := tdel s.trt.trains n } }

/-- The acts of TRAIN_LEAVE (R68, R105). -/
def leave (n : Nat) (t : Train) (s : State) : State :=
  let s1 := match t.state, t.atStop with
    | .released, some p => queueOrder (.departCancel n p) s
    | _, _ => s
  let q := gateLeave n s1
  let toward := if t.state = .released then (nextSect s t).toList else []
  let s2 := tested (modTrain n (fun t => { t with state := .running }) q.1, toward ++ q.2)
  let s3 := match t.trip with
    | some r => endRun r.trip .done s2
    | none => s2
  removeTrain n (dropApproach n s3)

end Sys2Proof.Machine
end

