-- ==== Sys2Proof/Machine/TrainCmds.lean ====
section
/-! DEFINITION. The Train Table's requests: ARRIVAL, DEPARTURE, TRAIN_ENTER, ASSIGN_TRIP, TRAIN_LEAVE and READ_TRAINS
(R54 to R69). -/

namespace Sys2Proof.Machine

/-! ## Layouts of replies (R69, R182; log 10) -/

/-- A location: selector 0 a stop point, 1 a link, 2 none. -/
def locItems : Location → List Item
  | .stop n => [u8 0, u8 n]
  | .link n => [u8 1, u8 n]
  | .none => [u8 2]

/-- A predicted arrival. -/
def predictionItems (p : Prediction) : List Item := count32 p.count :: optional (fun v => [u32 v]) p.svc

/-- A grant field: zone, units, GRANTED 0 or STARTED 1, given-at, started-at. -/
def grantItems (g : GrantRef) : List Item :=
  [u8 g.zone, u8 g.units, u8 (if g.startedAt.isSome then 1 else 0), count32 g.givenAt] ++ optional (fun c => [count32 c]) g.startedAt

/-- A hold-cause set as a mask of two bytes. -/
def causesItem (l : List Cause) : Item := maskItem 2 (l.map Cause.code)

/-- The trip and stop index a record holds, each with its presence byte (DESIGN CHOICE, log 10). -/
def tripItems (o : Option TripRef) : List Item := optional (fun r => [u16 r.trip]) o ++ optional (fun r => [u8 r.index]) o

/-- A train record with every field of R51, in its order, then its desk-hold indication (R109; log 10). -/
def trainItems (n : Nat) (t : Train) : List Item :=
  [u16 n, u8 t.cls, u8 t.state.code] ++ tripItems t.trip ++ locItems t.loc ++ optional (fun v => [u32 v]) t.arrSvc
    ++ [count32 t.arrCount, u16 t.dwell, count32 t.dwellExpiry, causesItem t.causes]
    ++ optional grantItems t.grant ++ optional (fun v => [i16 v]) t.lateness ++ [u8 t.profile]
    ++ optional predictionItems t.predicted ++ optional (fun l => [u8 l]) t.nextLink ++ [flag t.deskHold]

/-- An optional trip number. -/
def tripNumber (o : Option Nat) : List Item := optional (fun n => [u16 n]) o

/-! ## ARRIVAL (R60) -/

/-- The case of an arrival as its reply gives it: NORMAL 0, SKIPPED 1 with its count, OFF_TRIP 2, MISSED_DEPARTURE 3,
UNSCHEDULED 4, REPEATED 5 (R60; log 10). A missed departure has its own case whatever R61 finds (DESIGN CHOICE, log 10). -/
def caseItems (missed : Bool) : Match → List Item
  | .normal => if missed then [u8 3] else [u8 0]
  | .skipped k => if missed then [u8 3] else [u8 1, u8 k]
  | .offTrip => if missed then [u8 3] else [u8 2]
  | .unscheduled => if missed then [u8 3] else [u8 4]

/-- An arrival that is taken, from a train RUNNING or taken as such (R61, R63). Its reply gives the case, the trip and stop index, the
dwell order with its clamp indication (R79), the clamped indication of the stamp (R59), and the trips ended and joined (R64). The places
of the two indications are the model's (log 10). -/
def takeArrival (missed : Bool) (n p : Nat) (m : Moment) (s : State) : State × Reply :=
  let q := matchArrival n p s
  let r := arrive n p m q.1
  let trip := (getTrain r.1 n).bind Train.trip
  let dwell := ((getTrain r.1 n).map Train.dwell).getD 0
  (r.1, .accept (caseItems missed q.2 ++ tripItems trip ++ [u16 dwell, u8 r.2.clamp.code, flag m.clamped]
    ++ tripNumber r.2.ended ++ tripNumber r.2.joined))

/-- A time stamp in range (R59). A stamp out of range is refused while the clock is UNSET too, although a stamp in range is disregarded
then: a DESIGN CHOICE (log 48). -/
def okStamp (o : Option Nat) : Bool := o.all (· < 864000)

/-- The Train Table's part of ARRIVAL (R60); every reply carries the clamped indication of R59. A stamp out of range is refused in either
clock state (DESIGN CHOICE, log 48). -/
def arrivalOwner (n p : Nat) (stamp : Option Nat) (s : State) : State × Reply :=
  if !s.inService then (s, refuse .state)
  else if !okStamp stamp then (s, refuseField 2)
  else if !thas s.lds.stops p then (s, refuse .unknown)
  else
    match getTrain s n with
    | none => (s, refuse .unknown)
    | some t =>
      if !t.standing then takeArrival false n p (momentOf s stamp) s
      else if t.atStop = some p then (s, .accept [u8 5, flag (momentOf s stamp).clamped])
      else takeArrival true n p (momentOf s stamp) (missedDeparture n s)

/-- ARRIVAL. -/
def execArrival (h : Hdr) (n p : Nat) (stamp : Option Nat) (s : State) : Host.Outcome State Fault Refusal :=
  .next (request .arrival h (.inArea .monitor (stopArea s p)) (arrivalOwner n p stamp) s)

/-! ## DEPARTURE (R65) -/

/-- The Train Table's part of DEPARTURE (R65): the case is RELEASED 0, UNRELEASED 1, MISMATCH 2 or RUNNING 3 (log 10);
every reply ends with the clamped indication of R59. A stamp out of range is refused in either clock state (DESIGN CHOICE, log 48). -/
def departureOwner (n p : Nat) (stamp : Option Nat) (s : State) : State × Reply :=
  if !s.inService then (s, refuse .state)
  else if !okStamp stamp then (s, refuseField 2)
  else if !thas s.lds.stops p then (s, refuse .unknown)
  else
    match getTrain s n with
    | none => (s, refuse .unknown)
    | some t =>
      let m := momentOf s stamp
      if !t.standing then (s, .accept [u8 3, flag m.clamped])
      else if t.atStop ≠ some p then (s, .accept (u8 2 :: locItems t.loc ++ [flag m.clamped]))
      else if t.state = .released then
        let s1 := departReleased n p m t s
        (s1, .accept (u8 0 :: optional predictionItems ((getTrain s1 n).bind Train.predicted) ++ [flag m.clamped]))
      else (departUnreleased n p t s, .accept [u8 1, flag m.clamped])

/-- DEPARTURE. -/
def execDeparture (h : Hdr) (n p : Nat) (stamp : Option Nat) (s : State) : Host.Outcome State Fault Refusal :=
  .next (request .departure h (.inArea .monitor (stopArea s p)) (departureOwner n p stamp) s)

/-! ## TRAIN_ENTER (R54 to R56) -/

/-- Range check 1 of R54. -/
def badEnter (n cls p : Nat) (trip : Option Nat) : Option Nat :=
  firstBad [within 1 9999 n, cls < 4, p < 64, withinOpt 1 65535 trip]

/-- A record as TRAIN_ENTER creates it, taken as RUNNING until its entry arrival makes it DWELLING (R56). -/
def newTrain (cls : Nat) : Train :=
  { cls := cls, state := .running, trip := none, loc := .none, arrSvc := none, arrCount := 0, dwell := 0, dwellExpiry := 0, causes := [],
    grant := none, lateness := none, profile := 0, predicted := none, nextLink := none, deskHold := false, mergeGap := none }

/-- A train enters with the trip found for it and the joining entry; the reply gives the trip, the dwell order with its clamp indication
and whether the trip is not valid today (R54 to R56, R79). Where the joining entry is the trip's last (R56, R64) the reply still gives only
the trip first given, and not the trips ended and joined that R64 has in the reply to an arrival: a DESIGN CHOICE (log 10). While the clock is UNSET the indication
follows the service day the clock record holds: a DESIGN CHOICE (log 49). -/
def enter (n cls p : Nat) (trip : Option (Nat × Nat)) (s : State) : State × Reply :=
  let s1 := { s with trt := { s.trt with trains := tput s.trt.trains n (newTrain cls) } }
  let s2 := match trip with
    | some (m, i) => joinTrip n m i s1
    | none => s1
  let r := arrive n p (receipt s) s2
  let notToday := match trip with
    | some (m, _) => (findTrip s m).any (fun t => !validToday s t)
    | none => false
  (r.1, .accept (tripNumber (trip.map Prod.fst)
    ++ [u16 (((getTrain r.1 n).map Train.dwell).getD 0), u8 r.2.clamp.code, flag notToday]))

/-- The checks and acts of TRAIN_ENTER in R54's order. -/
def enterOwner (n cls p : Nat) (trip : Option Nat) (s : State) : State × Reply :=
  if !s.inService then (s, refuse .state)
  else
    match badEnter n cls p trip with
    | some f => (s, refuseField f)
    | none =>
      if !thas s.lds.classes cls || !thas s.lds.stops p then (s, refuse .unknown)
      else if thas s.trt.trains n then (s, refuse .conflict)
      else if Config.maxTrains ≤ s.trt.trains.length then (s, refuse .full)
      else
        match trip with
        | none =>
          let q := pickTrip p s
          enter n cls p (q.2.map (fun m => (m, 0))) q.1
        | some m =>
          match findTrip s m with
          | none => (s, refuse .unknown)
          | some t =>
            if t.run ≠ .planned then (s, refuse .state)
            else
              let q := findStopFrom m p 0 s
              match q.2 with
              | none => (q.1, refuse .range)
              | some i => enter n cls p (some (m, i)) q.1

/-- TRAIN_ENTER. -/
def execTrainEnter (h : Hdr) (n cls p : Nat) (trip : Option Nat) (s : State) : Host.Outcome State Fault Refusal :=
  .next (request .trainEnter h (.inArea .operate (stopArea s p)) (enterOwner n cls p trip) s)

/-! ## ASSIGN_TRIP (R57) -/

/-- A trip is given to a standing train at its stop point; with a changed next link a waiting request is withdrawn and the train is
evaluated (R57, R97). While the clock is UNSET the not-valid-today indication follows the service day the clock record holds: a DESIGN
CHOICE (log 49). -/
def assign (n m i p : Nat) (old : Option Nat) (s : State) : State × Reply :=
  let notToday := (findTrip s m).any (fun t => !validToday s t)
  let s1 := predictAssigned n (setRoute n p (joinTrip n m i s))
  let link := (getTrain s1 n).bind Train.nextLink
  let s2 := if link = old then s1 else tested (evaluate n true (withdrawRequest n s1))
  (s2, .accept ([u8 i] ++ optional (fun l => [u8 l]) link ++ [flag notToday]))

/-- The checks and acts of ASSIGN_TRIP in R57's order. -/
def assignOwner (n m : Nat) (s : State) : State × Reply :=
  if !s.inService then (s, refuse .state)
  else
    match firstBad [within 1 9999 n, within 1 65535 m] with
    | some f => (s, refuseField f)
    | none =>
      match getTrain s n with
      | none => (s, refuse .unknown)
      | some t =>
        match t.atStop with
        | none => (s, refuse .state)
        | some p =>
          if t.state ≠ .dwelling ∧ t.state ≠ .held then (s, refuse .state)
          else if t.trip.isSome then (s, refuse .conflict)
          else
            match findTrip s m with
            | none => (s, refuse .unknown)
            | some r =>
              if r.run ≠ .planned then (s, refuse .state)
              else
                let q := findStopFrom m p 0 s
                match q.2 with
                | none => (q.1, refuse .range)
                | some i => assign n m i p t.nextLink q.1

/-- ASSIGN_TRIP. -/
def execAssignTrip (h : Hdr) (n m : Nat) (s : State) : Host.Outcome State Fault Refusal :=
  .next (request .assignTrip h (.inArea .operate (trainArea s n)) (assignOwner n m) s)

/-! ## TRAIN_LEAVE (R68) -/

/-- The Train Table's part of TRAIN_LEAVE (R68). -/
def leaveOwner (n : Nat) (s : State) : State × Reply :=
  if !s.inService then (s, refuse .state)
  else
    match getTrain s n with
    | none => (s, refuse .unknown)
    | some t => (leave n t s, .accept (tripNumber (t.trip.map TripRef.trip)))

/-- TRAIN_LEAVE. -/
def execTrainLeave (h : Hdr) (n : Nat) (s : State) : Host.Outcome State Fault Refusal :=
  .next (request .trainLeave h (.inArea .operate (trainArea s n)) (leaveOwner n) s)

/-! ## READ_TRAINS (R69) -/

/-- The snapshot of the records and counts a desk may see (R69). Two counted lists, a section's number before its count, are a DESIGN
CHOICE (log 10). -/
def trainsSnapshot (desk : Nat) (s : State) : List Item :=
  listed (fun q => trainItems q.1 q.2) (s.trt.trains.filter (fun q => holdsAt s desk .monitor (locArea s q.2.loc)))
    ++ listed (fun q => [u8 q.1, u8 q.2]) (s.trt.occupancy.filter (fun q => holdsAt s desk .monitor (sectArea s q.1)))

/-- The Train Table's part of READ_TRAINS (R69). -/
def readTrainsOwner (desk : Nat) (train : Option Nat) (s : State) : State × Reply :=
  match train with
  | none => (s, .accept (trainsSnapshot desk s))
  | some n =>
    match getTrain s n with
    | none => (s, refuse .unknown)
    | some t => (s, .accept (trainItems n t))

/-- READ_TRAINS. -/
def execReadTrains (h : Hdr) (train : Option Nat) (s : State) : Host.Outcome State Fault Refusal :=
  .next (request .readTrains h
    (match train with
      | none => .anyArea .monitor
      | some n => .inArea .monitor (trainArea s n))
    (readTrainsOwner h.desk train) s)

end Sys2Proof.Machine
end

