-- ==== Sys2Proof/Machine/GateCmds.lean ====
section
/-! DEFINITION. The Departure Gate's requests and timers: desk and platform holds, READ_GATE, and the four expiries (R95, R102, R103,
R107 to R109). -/

namespace Sys2Proof.Machine

/-! ## Timers -/

/-- The dwell watch of a train has run out (R95). -/
def dwellDue (s : State) (t : Train) : Bool := t.standing && t.causes.contains .dwell && reached s.now t.dwellExpiry

/-- The dwell expiry of a train (R95). -/
def dwellEnds (n : Nat) (s : State) : State :=
  tested (evaluate n true (modTrain n (fun t => { t with causes := withoutCause .dwell t.causes }) s))

/-- DWELL_EXPIRY. -/
def execDwellExpiry (n : Nat) (s : State) : Host.Outcome State Fault Refusal :=
  .next (if s.live && (getTrain s n).any (dwellDue s) then dwellEnds n s else s)

/-- The MERGE_GAP expiry of a train is reached (R95). -/
def mergeGapDue (s : State) (t : Train) : Bool := t.standing && t.causes.contains .mergeGap && reachedOpt s.now t.mergeGap

/-- The MERGE_GAP expiry of a train (R95). -/
def mergeGapEnds (n : Nat) (s : State) : State :=
  tested (evaluate n true (modTrain n (fun t => { t with causes := withoutCause .mergeGap t.causes, mergeGap := none }) s))

/-- MERGE_GAP_EXPIRY. -/
def execMergeGapExpiry (n : Nat) (s : State) : Host.Outcome State Fault Refusal :=
  .next (if s.live && (getTrain s n).any (mergeGapDue s) then mergeGapEnds n s else s)

/-- The release timeout of a train's GRANTED grant is reached (R103). -/
def releaseDue (s : State) (n : Nat) (t : Train) : Bool :=
  t.state = .released && t.grant.any (fun g =>
    (tget s.gate.arbiters g.zone).any (fun a => a.grants.any (fun k => k.grantedTo n && reached s.now k.expiry)))

/-- The release timeout (R103): DEPART_CANCEL, the grant withdrawn, selection, and an evaluation whose request starts no
selection. -/
def releaseEnds (n : Nat) (t : Train) (s : State) : State :=
  let p := withdrawRelease n [] t s
  let q := evaluate n false p.1
  tested (q.1, p.2 ++ q.2)

/-- RELEASE_TIMEOUT. -/
def execReleaseTimeout (n : Nat) (s : State) : Host.Outcome State Fault Refusal :=
  .next (match getTrain s n with
    | some t => if s.live && releaseDue s n t then releaseEnds n t s else s
    | none => s)

/-- START_WINDOW_END: the STARTED grant of a train in a zone ends (R102). -/
def execStartWindowEnd (z n : Nat) (s : State) : Host.Outcome State Fault Refusal :=
  .next (if s.live && windowOver s z n then tested (endStarted z n s) else s)

/-! ## Desk holds (R107) -/

/-- The desk-hold indication of a train is written and the train evaluated (R107). -/
def setDeskHold (n : Nat) (on : Bool) (s : State) : State :=
  tested (evaluate n true (modTrain n (fun t => { t with deskHold := on }) s))

/-- The state of a train as its number. -/
def trainStateItem (s : State) (n : Nat) : Item := u8 (((getTrain s n).map (fun t => t.state.code)).getD 0)

/-- The gate's part of HOLD_TRAIN (R107). -/
def holdTrainOwner (n : Nat) (s : State) : State × Reply :=
  if !s.inService then (s, refuse .state)
  else
    match getTrain s n with
    | none => (s, refuse .unknown)
    | some t =>
      if t.deskHold then (s, .accept [u8 t.state.code, flag false])
      else
        let s1 := setDeskHold n true s
        (s1, .accept [trainStateItem s1 n, flag (t.state = .released)])

/-- HOLD_TRAIN. -/
def execHoldTrain (h : Hdr) (n : Nat) (s : State) : Host.Outcome State Fault Refusal :=
  .next (request .holdTrain h (.inArea .operate (trainArea s n)) (holdTrainOwner n) s)

/-- The gate's part of RELEASE_TRAIN (R107). -/
def releaseTrainOwner (n : Nat) (s : State) : State × Reply :=
  if !s.inService then (s, refuse .state)
  else
    match getTrain s n with
    | none => (s, refuse .unknown)
    | some t =>
      if !t.deskHold then (s, .accept [u8 t.state.code])
      else
        let s1 := setDeskHold n false s
        (s1, .accept [trainStateItem s1 n])

/-- RELEASE_TRAIN. -/
def execReleaseTrain (h : Hdr) (n : Nat) (s : State) : Host.Outcome State Fault Refusal :=
  .next (request .releaseTrain h (.inArea .operate (trainArea s n)) (releaseTrainOwner n) s)

/-! ## Platform holds (R108) -/

/-- The trains standing at a stop point. -/
def standingAt (s : State) (p : Nat) : Table Train := s.trt.trains.filter (fun q => q.2.standing && q.2.atStop = some p)

/-- A platform hold written. -/
def writePlatformHold (p : Nat) (on : Bool) (s : State) : State :=
  { s with gate := { s.gate with
    platformHolds := normSet 64 (if on then p :: s.gate.platformHolds else s.gate.platformHolds.filter (· ≠ p)) } }

/-- Train `n` is RELEASED. -/
def isReleased (s : State) (n : Nat) : Bool := (getTrain s n).any (fun t => t.state = .released)

/-- How many of the evaluations of some trains, made one after another, withdraw a release: the train is RELEASED when its turn comes,
be it by a grant that an earlier turn let through, and is not after it (R108). -/
def withdrawals : List Nat → State → Nat
  | [], _ => 0
  | n :: r, s =>
    let t := (evaluate n true s).1
    (if isReleased s n && !isReleased t n then 1 else 0) + withdrawals r t

/-- A platform hold is written and every train standing there is evaluated (R108). -/
def setPlatformHold (p : Nat) (on : Bool) (s : State) : State := tested (evaluateAt p (writePlatformHold p on s))

/-- The gate's part of HOLD_PLATFORM and RELEASE_PLATFORM (R108): `on` is the hold to be left. -/
def platformOwner (p : Nat) (on : Bool) (s : State) : State × Reply :=
  if !s.inService then (s, refuse .state)
  else if !thas s.lds.stops p then (s, refuse .unknown)
  else
    let standing := (standingAt s p).length
    if s.gate.platformHolds.contains p = on then (s, .accept [u8 standing, u8 0])
    else
      let withdrawn := withdrawals (byArrival s.now (standingAt s p)) (writePlatformHold p on s)
      (setPlatformHold p on s, .accept [u8 standing, u8 withdrawn])

/-- HOLD_PLATFORM. -/
def execHoldPlatform (h : Hdr) (p : Nat) (s : State) : Host.Outcome State Fault Refusal :=
  .next (request .holdPlatform h (.inArea .operate (stopArea s p)) (platformOwner p true) s)

/-- RELEASE_PLATFORM. -/
def execReleasePlatform (h : Hdr) (p : Nat) (s : State) : Host.Outcome State Fault Refusal :=
  .next (request .releasePlatform h (.inArea .operate (stopArea s p)) (platformOwner p false) s)

/-! ## READ_GATE (R109) -/

/-- A request of a start list, with its urgent indication. -/
def requestItems (limit : Nat) (r : Request) : List Item :=
  [u16 r.train, u8 r.stop, u8 r.units, count32 r.time, u8 r.skipped, flag (r.skipped = limit)]

/-- A grant of a grant list. -/
def grantListItems (g : Grant) : List Item :=
  [u16 g.train, u8 g.stop, u8 g.units, u8 (if g.startedAt.isSome then 1 else 0), count32 g.givenAt]
    ++ optional (fun c => [count32 c]) g.startedAt ++ [count32 g.expiry]

/-- A start arbiter as READ_GATE returns it. -/
def arbiterItems (limit : Nat) (a : Arbiter) : List Item :=
  [u8 a.capacity, u16 a.inUse] ++ optional (fun p => [u8 p]) a.lastStop ++ [u8 limit]
    ++ listed (requestItems limit) a.starts ++ listed grantListItems a.grants

/-- The gate's part of READ_GATE ZONE (R109). -/
def readGateZoneOwner (z : Nat) (s : State) : State × Reply :=
  if !s.inService then (s, refuse .state)
  else
    match tget s.gate.arbiters z with
    | none => (s, refuse .unknown)
    | some a => (s, .accept (arbiterItems (starvationOf s z) a))

/-- READ_GATE ZONE. -/
def execReadGateZone (h : Hdr) (z : Nat) (s : State) : Host.Outcome State Fault Refusal :=
  .next (request .readGate h (.inArea .monitor (zoneArea s z)) (readGateZoneOwner z) s)

/-- The gate's part of READ_GATE PLATFORMS (R109). The numbers are a counted list and no mask: a DESIGN CHOICE (log 10). -/
def readGatePlatformsOwner (s : State) : State × Reply :=
  if !s.inService then (s, refuse .state) else (s, .accept (listed (fun p => [u8 p]) s.gate.platformHolds))

/-- READ_GATE PLATFORMS. -/
def execReadGatePlatforms (h : Hdr) (s : State) : Host.Outcome State Fault Refusal :=
  .next (request .readGate h (.anyArea .monitor) readGatePlatformsOwner s)

end Sys2Proof.Machine
end

