-- ==== Sys2Proof/Machine/RegCmds.lean ====
section
/-! DEFINITION. The Regulator's requests: SET_DWELL and the three forms of READ_REGULATION (R84, R89). -/

namespace Sys2Proof.Machine

/-! ## SET_DWELL (R84) -/

/-- The gate is given a new dwell expiry (R84 step 5, R95). -/
def newDwellExpiry (n : Nat) (s : State) : State :=
  tested (evaluate n true (modTrain n (fun t => { t with
    causes := if reached s.now t.dwellExpiry then withoutCause .dwell t.causes else withCause .dwell t.causes }) s))

/-- Steps 1 to 5 of R84 for a standing train at stop point `p`; the clamp indication is given. -/
def applyDwell (n p v : Nat) (t : Train) (stop : Stop) (s : State) : State × Bool :=
  let b := readBounds t stop s
  let d := clampNat b.2.dmin b.2.dmax v
  let s2 := modTrain n (fun t => { t with dwell := d, dwellExpiry := later t.arrCount d }) b.1
  let s3 := recomputeProfile n s2
  (newDwellExpiry n (queueOrder (.dwell n p d) s3), d ≠ v)

/-- The reply to SET_DWELL: dwell order, clamped indication, dwell expiry and profile in force. -/
def dwellReply (s : State) (n : Nat) (clamped : Bool) : Reply :=
  match getTrain s n with
  | none => refuse .unknown
  | some t => .accept [u16 t.dwell, flag clamped, count32 t.dwellExpiry, u8 t.profile]

/-- The Regulator's part of SET_DWELL (R84). -/
def setDwellOwner (n v : Nat) (s : State) : State × Reply :=
  if !s.inService then (s, refuse .state)
  else if !within 1 9999 n then (s, refuseField 0)
  else
    match getTrain s n with
    | none => (s, refuse .unknown)
    | some t =>
      match t.atStop with
      | none => (s, refuse .state)
      | some p =>
        if t.state ≠ .dwelling ∧ t.state ≠ .held then (s, refuse .state)
        else
          match tget s.lds.stops p with
          | none => (s, refuse .state)
          | some stop =>
            let q := applyDwell n p v t stop s
            (q.1, dwellReply q.1 n q.2)

/-- SET_DWELL. -/
def execSetDwell (h : Hdr) (n v : Nat) (s : State) : Host.Outcome State Fault Refusal :=
  .next (request .setDwell h (.inArea .operate (trainArea s n)) (setDwellOwner n v) s)

/-! ## READ_REGULATION (R89) -/

/-- The regulation parameters. -/
def paramItems (p : RegParams) : List Item := [u8 p.weight, u8 p.gain, u16 p.early, u16 p.late, u16 p.step]

/-- READ_REGULATION PARAMETERS. -/
def execReadRegulationParameters (h : Hdr) (s : State) : Host.Outcome State Fault Refusal :=
  .next (request .readRegulation h (.anyArea .monitor) (fun s => (s, .accept (paramItems s.reg.params))) s)

/-- A headway memory. -/
def headwayItems (m : Headway) : List Item :=
  optional (fun c => [count32 c]) m.last ++ optional (fun v => [u32 v]) m.sprev ++ optional (fun n => [u16 n]) m.train

/-- A last regulation, each value as R80 lists; Hp, Ha and E have a presence byte each (DESIGN CHOICE, log 10). -/
def lastRegItems (r : LastReg) : List Item :=
  [u16 r.train, count32 r.arrCount, u32 r.dp] ++ optional (fun v => [i16 v]) r.lateness ++ optional (fun v => [i32 v]) r.hp
    ++ optional (fun v => [i32 v]) r.ha ++ optional (fun v => [i16 v]) r.error
    ++ [u8 r.weight, i16 r.c, i16 r.c1, i16 r.c2, u16 r.dwell, u8 r.clamp.code, i32 r.residual, i32 r.shift, u8 r.profile]

/-- The Regulator's part of READ_REGULATION STOP. -/
def readRegulationStopOwner (p : Nat) (s : State) : State × Reply :=
  if !s.inService then (s, refuse .state)
  else
    match tget s.reg.headways p with
    | none => (s, refuse .unknown)
    | some m => (s, .accept (headwayItems m ++ optional lastRegItems (tget s.reg.lastRegs p)))

/-- READ_REGULATION STOP. -/
def execReadRegulationStop (h : Hdr) (p : Nat) (s : State) : Host.Outcome State Fault Refusal :=
  .next (request .readRegulation h (.inArea .monitor (stopArea s p)) (readRegulationStopOwner p) s)

/-- A merge record; the link of its committed arrival is A 0 or B 1 (R71, R89). -/
def mergeItems (r : MergeRec) : List Item :=
  [u8 r.stop, u8 r.linkA, u8 r.linkB, u16 r.separation] ++ optional (fun c => [count32 c.count, u8 c.side.code]) r.committed

/-- The Regulator's part of READ_REGULATION MERGE. -/
def readRegulationMergeOwner (m : Nat) (s : State) : State × Reply :=
  if !s.inService then (s, refuse .state)
  else
    match tget s.reg.merges m with
    | none => (s, refuse .unknown)
    | some r => (s, .accept (mergeItems r))

/-- READ_REGULATION MERGE. -/
def execReadRegulationMerge (h : Hdr) (m : Nat) (s : State) : Host.Outcome State Fault Refusal :=
  .next (request .readRegulation h (.inArea .monitor (mergeArea s m)) (readRegulationMergeOwner m) s)

end Sys2Proof.Machine
end

