-- ==== Sys2Proof/Machine/TractionCmds.lean ====
section
/-! DEFINITION. The Traction Controller's requests and timers (R113 to R132). -/

namespace Sys2Proof.Machine

/-! ## Timers -/

/-- A pending order is a deferred energise whose start time is reached (R116). -/
def deferredDue (now : Count) (r : SectRec) : Bool :=
  match r.pending with
  | some (.energiseDeferred start) => reached now start
  | _ => false

/-- DEFERRED_ENERGISE_START: the pending order is cleared and the energise starts (R116). -/
def execDeferredEnergiseStart (x : Nat) (s : State) : Host.Outcome State Fault Refusal :=
  .next (if s.live && (getRec s x).any (fun r => r.state = .dead && deferredDue s.now r) then startEnergise x s else s)

/-- An operation timeout is reached in a state. -/
def timeoutDue (now : Count) (st : SectState) (r : SectRec) : Bool := r.state = st && reachedOpt now r.timeout

/-- The energise timeout: BREAKER OPEN, DEAD, SECTION_FAULT (R115). The raise comes before the gate is told: a DESIGN CHOICE
(log 16). -/
def energiseFails (x : Nat) (s : State) : State :=
  sectionChanged x (raiseSectionFault x
    (modRec x (fun r => { becomeDead s.now r with order := some .opening }) (queueOrder (.breaker x .opening) s)))

/-- ENERGISE_TIMEOUT. -/
def execEnergiseTimeout (x : Nat) (s : State) : Host.Outcome State Fault Refusal :=
  .next (if s.live && (getRec s x).any (timeoutDue s.now .energising) then energiseFails x s else s)

/-- ISOLATE_TIMEOUT: SECTION_FAULT, no further timeout, the section stays ISOLATING (R118). -/
def execIsolateTimeout (x : Nat) (s : State) : Host.Outcome State Fault Refusal :=
  .next (if s.live && (getRec s x).any (timeoutDue s.now .isolating) then
      raiseSectionFault x (modRec x (fun r => { r with timeout := none }) s)
    else s)

/-- A record as the end of a proving leaves it: LIVE, with an interval begun where none runs (R126). -/
def provingOver (s : State) (f : SectionFields) (r : SectRec) : SectRec :=
  { r with state := .live, timeout := none, provingOrdered := none, interval := r.interval.or (newInterval s f) }

/-- What follows the return to LIVE at the end of a proving: the gate is told, a pending isolate-on-clear is taken with no occupant,
and the test is made (R119, R126). With a settle time of 0 the watch set at a timeout is reached at once, and the test may pass: R125 is
followed, not R126's remark that it fails (log 37). -/
def afterProving (x : Nat) (s : State) : State :=
  let s1 := sectionChanged x s
  match getRec s1 x with
  | none => s1
  | some r =>
    if r.state = .live && r.pending = some .isolateOnClear && occupancyOf s1 x = 0 then startIsolation x s1
    else provingTest x s1

/-- The settle watch is set from a reference (R125). -/
def setSettle (reference : Count) (f : SectionFields) (r : SectRec) : SectRec :=
  { r with settle := some (later reference f.settleTime), settleArmed := true }

/-- A proving runs out without a result (R126). The raise comes before the gate is told: a DESIGN CHOICE (log 16). -/
def provingRunsOut (x : Nat) (f : SectionFields) (s : State) : State :=
  afterProving x (raiseProvingTimeout x
    (modRec x (fun r => setSettle s.now f { provingOver s f r with lastProvingTimeout := some s.now }) s))

/-- PROVING_TIMEOUT. -/
def execProvingTimeout (x : Nat) (s : State) : Host.Outcome State Fault Refusal :=
  .next (match tget s.lds.sections x with
    | some f => if s.live && (getRec s x).any (timeoutDue s.now .proving) then provingRunsOut x f s else s
    | none => s)

/-- Owed provings rise by 1 to at most 8: the gate is told when they reach 8, and the test is made (R124, R127, R128). -/
def oweOne (x : Nat) (s : State) : State :=
  let s1 := modRec x (fun r => { r with owed := satSucc Config.maxOwed r.owed }) s
  let forced := (getRec s x).any (fun r => r.owed ≠ Config.maxOwed) && (getRec s1 x).any (fun r => r.owed = Config.maxOwed)
  provingTest x (if forced then sectionChanged x s1 else s1)

/-- PROVING_INTERVAL_EXPIRY: one more owed, and a new interval unless the value in force is 0 (R124). -/
def execProvingIntervalExpiry (x : Nat) (s : State) : Host.Outcome State Fault Refusal :=
  .next (match tget s.lds.sections x with
    | some f =>
      if s.live && (getRec s x).any (fun r => reachedOpt s.now r.interval) then
        oweOne x (modRec x (fun r => { r with interval := newInterval s f }) s)
      else s
    | none => s)

/-- A settle watch is reached and its test not made yet (R125, log 21). -/
def settleDue (now : Count) (r : SectRec) : Bool := r.settleArmed && reachedOpt now r.settle

/-- SETTLE_WATCH_EXPIRY: the proving-start test (R125). -/
def execSettleWatchExpiry (x : Nat) (s : State) : Host.Outcome State Fault Refusal :=
  .next (if s.live && (getRec s x).any (settleDue s.now) then
      provingTest x (modRec x (fun r => { r with settleArmed := false }) s)
    else s)

/-! ## Desk commands (R113) -/

/-- The outcome a traction command's reply gives (R113). -/
inductive TractionOutcome where
  | started
  | deferred (start : Count)
  | pending
  | cancelled (o : PendingOrder)
  | noEffect
  deriving DecidableEq, Repr

/-- A pending order: 0 ENERGISE_DEFERRED with its start time, 1 ISOLATE_ON_CLEAR (R111, R182). -/
def pendingItems : PendingOrder → List Item
  | .energiseDeferred start => [u8 0, count32 start]
  | .isolateOnClear => [u8 1]

/-- An outcome: STARTED 0, DEFERRED 1, PENDING 2, CANCELLED 3, NO_EFFECT 4 (R113). CANCELLED gives the number of the order cancelled
alone, a deferral's start time left out: a DESIGN CHOICE (log 10). -/
def TractionOutcome.items : TractionOutcome → List Item
  | .started => [u8 0]
  | .deferred start => [u8 1, count32 start]
  | .pending => [u8 2]
  | .cancelled (.energiseDeferred _) => [u8 3, u8 0]
  | .cancelled .isolateOnClear => [u8 3, u8 1]
  | .noEffect => [u8 4]

/-- The reply to an accepted traction command: the section's state, its pending order and the outcome (R113). -/
def tractionReply (s : State) (x : Nat) (o : TractionOutcome) : Reply :=
  match getRec s x with
  | none => refuse .unknown
  | some r => .accept (u8 r.state.code :: optional pendingItems r.pending ++ o.items)

/-- The checks the six commands share (R113): RANGE, UNKNOWN, and TOPOLOGY in SETUP; the command is then decided from the section's
record. A command gives its state and outcome, or a refusal. -/
def tractionCommand (x : Nat) (act : SectRec → SectionFields → State → Except Reply (State × TractionOutcome)) (s : State) :
    State × Reply :=
  if !decide (x < 24) then (s, refuseField 0)
  else
    match tget s.lds.sections x, getRec s x with
    | some f, some r =>
      if !s.inService && !thas s.lds.zones f.zone then (s, refuseObject .topology 3 x)
      else
        match act r f s with
        | .error e => (s, e)
        | .ok q => (q.1, tractionReply q.1 x q.2)
    | _, _ => (s, refuse .unknown)

/-- The latest start that the two breaker limits allow, each counted where present (R114). -/
def energiseLimit (f : SectionFields) (r : SectRec) : Option Count :=
  match r.lastIsolated.map (fun c => later c f.deadTime), r.lastEnergiseStart.map (fun c => later c f.cycleTime) with
  | some a, some b => some (laterOf a b)
  | some a, none => some a
  | none, b => b

/-- Both breaker timing limits are met (R114). -/
def limitsMet (now : Count) (f : SectionFields) (r : SectRec) : Bool :=
  r.lastIsolated.all (fun c => reached now (later c f.deadTime)) && r.lastEnergiseStart.all (fun c => reached now (later c f.cycleTime))

/-- A pending isolate-on-clear is cancelled and the gate told (R114, R119). -/
def cancelOnClear (x : Nat) (r : SectRec) (s : State) : Except Reply (State × TractionOutcome) :=
  if r.pending = some .isolateOnClear then
    .ok (sectionChanged x (modRec x (fun r => { r with pending := none }) s), .cancelled .isolateOnClear)
  else .ok (s, .noEffect)

/-- ENERGISE by state (R113, R114, R123). -/
def energiseAct (x : Nat) (r : SectRec) (f : SectionFields) (s : State) : Except Reply (State × TractionOutcome) :=
  if effectiveOf s x = .deEnergise then .error (refuse .state)
  else
    match r.state with
    | .dead =>
      if r.pending.isSome then .ok (s, .noEffect)
      else if limitsMet s.now f r then .ok (startEnergise x s, .started)
      else
        match energiseLimit f r with
        | none => .ok (startEnergise x s, .started)
        | some c => .ok (modRec x (fun r => { r with pending := some (.energiseDeferred c) }) s, .deferred c)
    | .energising => .ok (s, .noEffect)
    | .live => cancelOnClear x r s
    | .proving => cancelOnClear x r s
    | .isolating => .error (refuse .state)
    | .earthed => .error (refuse .state)

/-- ENERGISE. -/
def execEnergise (h : Hdr) (x : Nat) (s : State) : Host.Outcome State Fault Refusal :=
  .next (request .energise h (.inArea .operate (sectArea s x)) (tractionCommand x (energiseAct x)) s)

/-- ISOLATE by state (R113, R117). -/
def isolateAct (x : Nat) (r : SectRec) (_f : SectionFields) (s : State) : Except Reply (State × TractionOutcome) :=
  match r.state with
  | .dead =>
    match r.pending with
    | some o => .ok (modRec x (fun r => { r with pending := none }) s, .cancelled o)
    | none => .ok (s, .noEffect)
  | .energising => .ok (startIsolation x s, .started)
  | .live => .ok (startIsolation x s, .started)
  | .proving => .ok (startIsolation x s, .started)
  | .isolating => .ok (s, .noEffect)
  | .earthed => .error (refuse .state)

/-- ISOLATE. -/
def execIsolate (h : Hdr) (x : Nat) (s : State) : Host.Outcome State Fault Refusal :=
  .next (request .isolate h (.inArea .operate (sectArea s x)) (tractionCommand x (isolateAct x)) s)

/-- An isolate-on-clear becomes pending and the gate is told; one already pending stays (R119). -/
def pendOnClear (x : Nat) (r : SectRec) (s : State) : Except Reply (State × TractionOutcome) :=
  if r.pending = some .isolateOnClear then .ok (s, .noEffect)
  else .ok (sectionChanged x (modRec x (fun r => { r with pending := some .isolateOnClear }) s), .pending)

/-- ISOLATE_ON_CLEAR by state (R113, R119). -/
def isolateOnClearAct (x : Nat) (r : SectRec) (_f : SectionFields) (s : State) : Except Reply (State × TractionOutcome) :=
  match r.state with
  | .dead => .error (refuse .state)
  | .energising => .error (refuse .state)
  | .live => if occupancyOf s x = 0 then .ok (startIsolation x s, .started) else pendOnClear x r s
  | .proving => pendOnClear x r s
  | .isolating => .ok (s, .noEffect)
  | .earthed => .error (refuse .state)

/-- ISOLATE_ON_CLEAR. -/
def execIsolateOnClear (h : Hdr) (x : Nat) (s : State) : Host.Outcome State Fault Refusal :=
  .next (request .isolateOnClear h (.inArea .operate (sectArea s x)) (tractionCommand x (isolateOnClearAct x)) s)

/-- EARTH by state (R120). One that cancels a deferral is answered CANCELLED, one that cancels nothing STARTED: a DESIGN
CHOICE (log 10). -/
def earthAct (x : Nat) (r : SectRec) (_f : SectionFields) (s : State) : Except Reply (State × TractionOutcome) :=
  match r.state with
  | .dead =>
    if occupancyOf s x ≠ 0 then .error (refuseCount .state (occupancyOf s x))
    else
      .ok (sectionChanged x (modRec x (fun r => { r with state := .earthed, pending := none }) s),
        match r.pending with
        | some o => .cancelled o
        | none => .started)
  | .earthed => .ok (s, .noEffect)
  | _ => .error (refuse .state)

/-- EARTH. -/
def execEarth (h : Hdr) (x : Nat) (s : State) : Host.Outcome State Fault Refusal :=
  .next (request .earth h (.inArea .full (sectArea s x)) (tractionCommand x (earthAct x)) s)

/-- UNEARTH by state (R120). -/
def unearthAct (x : Nat) (r : SectRec) (_f : SectionFields) (s : State) : Except Reply (State × TractionOutcome) :=
  match r.state with
  | .earthed => .ok (sectionChanged x (modRec x (fun r => { r with state := .dead }) s), .started)
  | .dead => .ok (s, .noEffect)
  | _ => .error (refuse .state)

/-- UNEARTH. -/
def execUnearth (h : Hdr) (x : Nat) (s : State) : Host.Outcome State Fault Refusal :=
  .next (request .unearth h (.inArea .full (sectArea s x)) (tractionCommand x (unearthAct x)) s)

/-- The reply to PROVE_NOW: the owed provings and the STARTED indication (R127). -/
def proveReply (s : State) (x : Nat) (started : Bool) : Reply :=
  match getRec s x with
  | none => refuse .unknown
  | some r => .accept [u8 r.owed, flag started]

/-- The Traction Controller's part of PROVE_NOW (R113, R127). -/
def proveNowOwner (x : Nat) (s : State) : State × Reply :=
  if !decide (x < 24) then (s, refuseField 0)
  else
    match tget s.lds.sections x, getRec s x with
    | some f, some r =>
      if !s.inService && !thas s.lds.zones f.zone then (s, refuseObject .topology 3 x)
      else if r.state = .live then
        let s1 := oweOne x s
        (s1, proveReply s1 x ((getRec s1 x).any (fun r => r.state = .proving)))
      else if r.state = .proving then (s, proveReply s x false)
      else (s, refuse .state)
    | _, _ => (s, refuse .unknown)

/-- PROVE_NOW. -/
def execProveNow (h : Hdr) (x : Nat) (s : State) : Host.Outcome State Fault Refusal :=
  .next (request .proveNow h (.inArea .operate (sectArea s x)) (proveNowOwner x) s)

/-! ## Breaker feedback (R121, R122) -/

/-- An uncommanded open (R121). The raise comes before the gate is told: a DESIGN CHOICE (log 16). -/
def uncommandedOpen (x : Nat) (s : State) : State := sectionChanged x (raiseSectionFault x (modRec x (becomeDead s.now) s))

/-- The section becomes LIVE from a close: the gate is told and the test is made (R115, R125). -/
def wentLive (x : Nat) (s : State) : State := provingTest x (sectionChanged x s)

/-- An uncommanded close of a section that was DEAD or EARTHED (R122). Whether the raise comes before the gate is told or after it is a
DESIGN CHOICE (log 16); the settle watch under DE_ENERGISE is DEDUCED (log 34). -/
def uncommandedClose (x : Nat) (f : SectionFields) (was : SectState) (s : State) : State :=
  let told := s.inService || was = .earthed
  let s1 := modRec x (fun r => { r with pending := none, lastEnergiseStart := some s.now }) s
  if effectiveOf s x = .deEnergise then
    let s2 := startIsolation x (modRec x (fun r => setSettle s.now f { r with lastEnergiseDone := some s.now }) s1)
    if told then raiseSectionFault x s2 else s2
  else
    let s2 := modRec x (becomeLive f s1) s1
    wentLive x (if told then raiseSectionFault x s2 else s2)

/-- What a report does after its position is recorded, and whether it is uncommanded (R121). A CLOSED report for a DEAD section in SETUP,
which R122 takes as the host's declaration at commissioning, is uncommanded in the reply as well: a DESIGN CHOICE (log 10). -/
def feedbackAct (x : Nat) (p : Position) (f : SectionFields) (r : SectRec) (s : State) : State × Bool :=
  match p, r.state with
  | .opened, .live => (uncommandedOpen x s, true)
  | .opened, .proving => (uncommandedOpen x s, true)
  | .opened, .isolating => (sectionChanged x (modRec x (becomeDead s.now) s), false)
  | .closed, .energising => (wentLive x (modRec x (becomeLive f s) s), false)
  | .closed, .dead => (uncommandedClose x f .dead s, true)
  | .closed, .earthed => (uncommandedClose x f .earthed s, true)
  | _, _ => (s, false)

/-- The state of a section as its number. -/
def sectStateItem (s : State) (x : Nat) : Item := u8 (((getRec s x).map (fun r => r.state.code)).getD 0)

/-- The Traction Controller's part of BREAKER_FEEDBACK (R121). -/
def breakerFeedbackOwner (x : Nat) (pos : Enum Position) (s : State) : State × Reply :=
  if !decide (x < 24) then (s, refuseField 0)
  else
    match pos with
    | .outside _ => (s, refuseField 1)
    | .val p =>
      match tget s.lds.sections x, getRec s x with
      | some f, some r =>
        let q := feedbackAct x p f r (modRec x (fun r => { r with feedback := p }) s)
        (q.1, .accept [sectStateItem q.1 x, flag q.2])
      | _, _ => (s, refuse .unknown)

/-- BREAKER_FEEDBACK. -/
def execBreakerFeedback (h : Hdr) (x : Nat) (pos : Enum Position) (s : State) : Host.Outcome State Fault Refusal :=
  .next (request .breakerFeedback h (.inArea .monitor (sectArea s x)) (breakerFeedbackOwner x pos) s)

/-! ## PROVE_RESULT (R126) -/

/-- A proving ends with a result (R126). PROVING_LOW is raised before the gate is told: a DESIGN CHOICE (log 16). -/
def provingResult (x : Nat) (o : ProveOutcome) (f : SectionFields) (s : State) : State :=
  let s1 := modRec x (fun r => { provingOver s f r with owed := 0 }) s
  afterProving x (match o with
    | .ok => s1
    | .low => raiseProvingLow x s1)

/-- The Traction Controller's part of PROVE_RESULT (R126); the reply is the NOT_PROVING indication alone, clear where the
result is taken (DESIGN CHOICE, log 10). -/
def proveResultOwner (x : Nat) (o : Enum ProveOutcome) (s : State) : State × Reply :=
  if !decide (x < 24) then (s, refuseField 0)
  else
    match o with
    | .outside _ => (s, refuseField 1)
    | .val o =>
      match tget s.lds.sections x, getRec s x with
      | some f, some r =>
        if r.state = .proving then (provingResult x o f s, .accept [flag false]) else (s, .accept [flag true])
      | _, _ => (s, refuse .unknown)

/-- PROVE_RESULT. -/
def execProveResult (h : Hdr) (x : Nat) (o : Enum ProveOutcome) (s : State) : Host.Outcome State Fault Refusal :=
  .next (request .proveResult h (.inArea .monitor (sectArea s x)) (proveResultOwner x o) s)

/-! ## FEED_MEASURE (R130, R131) -/

/-- The test of step 3 of R130. -/
def backToNormal (z : Zone) (vp vt : Int) : Bool :=
  vt + z.hc < vp || (!z.compareOnly && decide ((z.vtrip : Int) + z.ht < vp))

/-- The feed state after a measurement, the first step of R130 that applies. -/
def nextFeed (z : Zone) (st : FeedState) (vp vt : Int) : FeedState :=
  if vp < z.vdead && vt < z.vdead then .unfed
  else
    match st with
    | .normal => if vp < vt - z.hc && (z.compareOnly || decide (vp < z.vtrip)) then .tieFed else .normal
    | .tieFed => if backToNormal z vp vt then .normal else .tieFed
    | .unfed => if backToNormal z vp vt then .normal else if (z.vdead : Int) + z.ht ≤ vt then .tieFed else .unfed

/-- The reports of a change of feed state (R131), which need no order among them: the arbiter has its capacity before FEED_LOST is raised
or ends (DESIGN CHOICE, log 41). -/
def feedChanged (z : Nat) (old new : FeedState) (s : State) : State :=
  let s1 := rederiveCapacity z (report .feedChange s)
  if new = .unfed then raiseFeedLost z s1
  else if old = .unfed then endCondition { kind := .feedLost, number := 0 } (.zone z) s1
  else s1

/-- A measurement is recorded and evaluated (R130). -/
def measure (z : Nat) (f : Zone) (r : ZoneRec) (vp vt : Nat) (s : State) : State :=
  let new := nextFeed f r.feed vp vt
  let s1 := { s with trc := { s.trc with
    zones := tmod s.trc.zones z (fun r => { r with feed := new, measured := some { vp := vp, vt := vt } }) } }
  if new = r.feed then s1 else feedChanged z r.feed new s1

/-- The reply to FEED_MEASURE: feed state, capacity and clamped indication. -/
def feedReply (s : State) (z : Nat) (clamped : Bool) : Reply :=
  match tget s.trc.zones z with
  | none => refuse .unknown
  | some r => .accept [u8 r.feed.code, u8 r.capacity, flag clamped]

/-- The Traction Controller's part of FEED_MEASURE (R130). -/
def feedMeasureOwner (z vp vt : Nat) (s : State) : State × Reply :=
  if !decide (z < 8) then (s, refuseField 0)
  else
    match tget s.lds.zones z, tget s.trc.zones z with
    | some f, some r =>
      let s1 := measure z f r (clampNat 0 2000 vp) (clampNat 0 2000 vt) s
      (s1, feedReply s1 z (2000 < vp || 2000 < vt))
    | _, _ => (s, refuse .unknown)

/-- FEED_MEASURE. -/
def execFeedMeasure (h : Hdr) (z vp vt : Nat) (s : State) : Host.Outcome State Fault Refusal :=
  .next (request .feedMeasure h (.inArea .monitor (zoneArea s z)) (feedMeasureOwner z vp vt) s)

/-! ## Reads (R132) -/

/-- An optional moment. -/
def momentItems (o : Option Count) : List Item := optional (fun c => [count32 c]) o

/-- A section record with every field of R111, then its occupancy and effective action (R132). -/
def sectionItems (r : SectRec) (occupancy : Nat) (a : Action) : List Item :=
  [u8 r.state.code, u8 (Position.code r.feedback)] ++ optional (fun o => [u8 (BreakerOrder.code o)]) r.order
    ++ optional pendingItems r.pending ++ momentItems r.lastIsolated ++ momentItems r.lastEnergiseStart
    ++ momentItems r.lastEnergiseDone ++ momentItems r.lastProvingTimeout ++ [u8 r.owed] ++ momentItems r.interval
    ++ momentItems r.timeout ++ optional (fun d => [u16 d]) r.provingOrdered ++ momentItems r.settle
    ++ [u8 occupancy, u8 (Action.code a)]

/-- The Traction Controller's part of READ_SECTION (R132). -/
def readSectionOwner (x : Nat) (s : State) : State × Reply :=
  match getRec s x with
  | none => (s, refuse .unknown)
  | some r => (s, .accept (sectionItems r (occupancyOf s x) (effectiveOf s x)))

/-- READ_SECTION. -/
def execReadSection (h : Hdr) (x : Nat) (s : State) : Host.Outcome State Fault Refusal :=
  .next (request .readSection h (.inArea .monitor (sectArea s x)) (readSectionOwner x) s)

/-- The zones a desk may see. -/
def visibleZones (desk : Nat) (s : State) : Table ZoneRec :=
  s.trc.zones.filter (fun q => holdsAt s desk .monitor (zoneArea s q.1))

/-- A zone as READ_ZONES returns it (R132). The zone's number before its values, and the measurement as one optional field, are a DESIGN
CHOICE (log 10). -/
def zoneItems (q : Nat × ZoneRec) : List Item :=
  [u8 q.1, u8 q.2.feed.code, u8 q.2.capacity] ++ optional (fun m => [u16 m.vp, u16 m.vt]) q.2.measured

/-- READ_ZONES returns the visible zones; when these are all the defined ones, FEED_CHANGE is taken out (R132, R179). -/
def readZonesOwner (desk : Nat) (s : State) : State × Reply :=
  let v := visibleZones desk s
  (if v.length = s.trc.zones.length then setCategory .feedChange false s else s, .accept (listed zoneItems v))

/-- READ_ZONES. -/
def execReadZones (h : Hdr) (s : State) : Host.Outcome State Fault Refusal :=
  .next (request .readZones h (.anyArea .monitor) (readZonesOwner h.desk) s)

end Sys2Proof.Machine
end

