-- ==== Sys2Proof/Machine/ClockCmds.lean ====
section
/-! DEFINITION. The Line Clock: the tick and the requests on the line time (R19 to R30). -/

namespace Sys2Proof.Machine

/-- The clock record changed. -/
def modClock (f : Clock → Clock) (s : State) : State := { s with clock := f s.clock }

/-- The day of week of a line time at its most recent origin (R26, log 23). -/
def serviceDayOf (timeOfDay day origin : Nat) : Nat := if origin * 36000 ≤ timeOfDay then day else (day + 6) % 7

/-- The service-day day of week recomputed from the line time and the origin (R26). -/
def Clock.resetServiceDay (c : Clock) : Clock := { c with serviceDay := serviceDayOf c.timeOfDay c.dayOfWeek c.serviceOrigin }

/-- A service-day rollover: the new service day, the daily reset of the store, Sprev cleared (R27, R28). -/
def rollover (s : State) : State := clearSprev (dailyReset (modClock Clock.resetServiceDay s))

/-! ## The tick (R19, R21, R23) -/

/-- What a tick adds to the line time, with the remainder after it, at the running count just reached (R21, R23). -/
def tickAdvance (rc : Count) (slew : Int) : Nat × Int :=
  if rc.toNat % 100 ≠ 0 || slew = 0 then (1, slew) else if 0 < slew then (2, slew - 1) else (0, slew + 1)

/-- The line time moved on by `n` deciseconds, midnight carried into the day of week (R21). -/
def Clock.advance (n : Nat) (c : Clock) : Clock :=
  { c with
    timeOfDay := (c.timeOfDay + n) % 864000
    dayOfWeek := if c.timeOfDay + n < 864000 then c.dayOfWeek else (c.dayOfWeek + 1) % 7 }

/-- The clock after a tick, its service day apart (R19, R21, R23). -/
def Clock.tick (c : Clock) : Clock :=
  let c1 := { c with cycleCount := 0, runningCount := c.runningCount + 1, ticked := true }
  match c.state with
  | .unset => c1
  | .running =>
    let a := tickAdvance c1.runningCount c.slew
    { c1 with slew := a.2 }.advance a.1

/-- A tick has reached a new whole second (R25). -/
def newSecond (old new : Clock) : Bool := old.state = .running && old.timeOfDay / 10 ≠ new.timeOfDay / 10

/-- A tick has taken service time through 0 (R27). -/
def passedOrigin (old new : Clock) : Bool := old.state = .running && new.serviceTime < old.serviceTime

/-- At a running count that is a whole second, the scrub and the lifting fall due (R47, R146, log 20). -/
def secondWork (s : State) : State :=
  if s.clock.runningCount.toNat % 10 = 0 && s.live then { s with scrubDue := true, liftDue := true } else s

/-- A tick, with the disturbances of the store it brings (R19, R25, R27; log 5). -/
def tickState (flips : List StoreFlip) (s : State) : State :=
  let s1 := secondWork (applyFlips flips (modClock Clock.tick s))
  let s2 := if passedOrigin s.clock s1.clock then rollover s1 else s1
  if newSecond s.clock s2.clock then secondEvent (s2.clock.timeOfDay / 10) s2.clock.dayOfWeek s2 else s2

/-- TICK: the clock ticks with supply, under RESET too (R31). -/
def execTick (flips : List StoreFlip) (s : State) : Host.Outcome State Fault Refusal :=
  .next (if s.powered then tickState flips s else s)

/-! ## Requests -/

/-- SET_TIME makes a rollover (R27). -/
def setTimeRolls (t d : Nat) (c : Clock) : Bool := c.state = .unset || serviceDayOf t d c.serviceOrigin ≠ c.serviceDay

/-- The clock as SET_TIME leaves it (R22). -/
def Clock.setTime (t d : Nat) (c : Clock) : Clock :=
  { c with timeOfDay := t, dayOfWeek := d, slew := 0, state := .running }.resetServiceDay

/-- The Line Clock's part of SET_TIME (R22). With the time of day and the day of week both out of range the detail names the time of day,
field 0: a DESIGN CHOICE (log 11). -/
def setTimeOwner (t d : Nat) (s : State) : State × Reply :=
  match firstBad [t < 864000, d < 7] with
  | some f => (s, refuseField f)
  | none =>
    let rolls := setTimeRolls t d s.clock
    let s1 := modClock (Clock.setTime t d) s
    let s2 := if rolls then rollover s1 else s1
    (setCategory .clockUnset false s2, .accept [u32 t, u8 d, u8 ClockState.running.code, flag rolls])

/-- SET_TIME. -/
def execSetTime (h : Hdr) (t d : Nat) (s : State) : Host.Outcome State Fault Refusal :=
  .next (request .setTime h .lineWide (setTimeOwner t d) s)

/-- The Line Clock's part of SET_TRIM (R20). -/
def setTrimOwner (v : Int) (s : State) : State × Reply :=
  let t := clampInt (-200) 200 v
  (modClock (fun c => { c with trim := t }) s, .accept [i16 t, flag (t ≠ v)])

/-- SET_TRIM. -/
def execSetTrim (h : Hdr) (v : Int) (s : State) : Host.Outcome State Fault Refusal :=
  .next (request .setTrim h .lineWide (setTrimOwner v) s)

/-- The clock after a step (R24, R26). -/
def Clock.step (o : Int) (c : Clock) : Clock :=
  let sum := (c.timeOfDay : Int) + o
  { c with
    timeOfDay := (sum % 864000).toNat
    dayOfWeek := if 864000 ≤ sum then (c.dayOfWeek + 1) % 7 else if sum < 0 then (c.dayOfWeek + 6) % 7 else c.dayOfWeek
    slew := 0 }.resetServiceDay

/-- A step with a positive offset has taken service time through 0 (R27). -/
def stepRolls (o : Int) (c : Clock) : Bool := 0 < o && 864000 ≤ (c.serviceTime : Int) + o

/-- The reply to ADJUST_TIME: SLEW 0 or STEP 1, the line time and the remainder (R23). -/
def adjustReply (mode : Nat) (c : Clock) : Reply := .accept [u8 mode, u32 c.timeOfDay, u8 c.dayOfWeek, i8 c.slew]

/-- The Line Clock's part of ADJUST_TIME (R23, R24). -/
def adjustTimeOwner (o : Int) (s : State) : State × Reply :=
  if !s.clockRunning then (s, refuse .state)
  else if -20 ≤ o && o ≤ 20 then
    let s1 := modClock (fun c => { c with slew := o }) s
    (s1, adjustReply 0 s1.clock)
  else
    let s1 := modClock (Clock.step o) s
    let s2 := if stepRolls o s.clock then rollover s1 else s1
    (s2, adjustReply 1 s2.clock)

/-- ADJUST_TIME. -/
def execAdjustTime (h : Hdr) (o : Int) (s : State) : Host.Outcome State Fault Refusal :=
  .next (request .adjustTime h .lineWide (adjustTimeOwner o) s)

/-- What READ_TIME returns (R29). -/
def timeItems (c : Clock) : List Item :=
  [u8 c.state.code, u32 c.timeOfDay, u8 c.dayOfWeek, u32 (if c.state = .running then c.serviceTime else 0), u8 c.serviceOrigin,
    u8 c.serviceDay, i16 c.trim, i8 c.slew, count32 c.runningCount]

/-- READ_TIME. -/
def execReadTime (h : Hdr) (s : State) : Host.Outcome State Fault Refusal :=
  .next (request .readTime h (.anyArea .monitor) (fun s => (s, .accept (timeItems s.clock))) s)

end Sys2Proof.Machine
end

