-- ==== Sys2Proof/Machine/StoreCmds.lean ====
section
/-! DEFINITION. The Timetable Store's requests and the scrub (R35 to R39, R47 to R49). -/

namespace Sys2Proof.Machine

/-! ## Checks on stop lists (R33, R35) -/

/-- A refusal naming an entry index alone. -/
def refuseEntryOnly (c : Code) (i : Nat) : Reply := .refuse c { Detail.empty with entry := some i }

/-- A scheduled time is absent exactly where it must be, and within a day (R35, row 2). -/
def okTime (absent : Bool) (o : Option Nat) : Bool :=
  match o with
  | none => absent
  | some v => !absent && decide (v < 864000)

/-- The entry field that row 2 of R35 refuses, if any: the entry stands at index `i` of `n`. A Dmin above its Dmax names Dmax, and an entry
that breaks several conditions of the row names the first of its fields in the order carried (DESIGN CHOICE, log 11); so too for row 3 of
R37. -/
def badEntry (n i : Nat) (e : EntryFields) : Option Nat :=
  firstBad [true, okTime (i = 0) e.sa, okTime (i + 1 = n) e.sd, e.dmin ≤ 6000, within e.dmin 6000 e.dmax, within 0 3 e.profile]

/-- The first entry that fails a check, with the field it names. -/
def firstBadEntry (bad : Nat → EntryFields → Option Nat) : Nat → List EntryFields → Option (Nat × Nat)
  | _, [] => none
  | i, e :: r =>
    match bad i e with
    | some f => some (i, f)
    | none => firstBadEntry bad (i + 1) r

/-- The scheduled times of an entry with its index and the field of each, in running order (R33). -/
def entryTimes (i : Nat) (e : EntryFields) : List (Nat × Nat × Nat) :=
  (e.sa.toList.map (fun v => (i, 1, v))) ++ (e.sd.toList.map (fun v => (i, 2, v)))

/-- The first time that falls below the one before it, by its entry and field (R35, row 4; that the later time is named is a DESIGN
CHOICE, log 11). -/
def firstFall : Nat → List (Nat × Nat × Nat) → Option (Nat × Nat)
  | _, [] => none
  | t, (i, f, v) :: r => if v < t then some (i, f) else firstFall v r

/-- The times of a list of entries, the first at index `i`. -/
def timesFrom : Nat → List EntryFields → List (Nat × Nat × Nat)
  | _, [] => []
  | i, e :: r => entryTimes i e ++ timesFrom (i + 1) r

/-- The first entry that no link joins to the one before it (R35, row 5). -/
def firstUnjoined (s : State) : Nat → List EntryFields → Option Nat
  | i, a :: b :: r => if (linkBetween s a.stop b.stop).isNone then some (i + 1) else firstUnjoined s (i + 1) (b :: r)
  | _, _ => none

/-! ## LOAD_TRIP (R35) -/

/-- Row 1 of R35, with the day mask (log 27). -/
def badTrip (t : TripFields) : Option Nat :=
  firstBad [within 1 65535 t.number, setBelow 7 t.dayMask, t.next.all (fun n => within 1 65535 n && n ≠ t.number),
    within 2 64 t.entries.length]

/-- The refusal of a LOAD_TRIP, if any: the rows of R35 in order. The CONFLICT of row 6 names no field, and the FULL of row 7
names the trip limit, reason 15, where both limits are reached: each a DESIGN CHOICE (log 11). -/
def loadRefusal (t : TripFields) (s : State) : Option Reply :=
  match badTrip t with
  | some f => some (refuseField f)
  | none =>
    match firstBadEntry (badEntry t.entries.length) 0 t.entries with
    | some (i, f) => some (refuseEntry .range i f)
    | none =>
      match indexWhere (fun e : EntryFields => !thas s.lds.stops e.stop) t.entries with
      | some i => some (refuseEntry .unknown i 0)
      | none =>
        match firstFall 0 (timesFrom 0 t.entries) with
        | some (i, f) => some (refuseEntry .range i f)
        | none =>
          match firstUnjoined s 0 t.entries with
          | some i => some (refuseEntry .range i 0)
          | none =>
            if (findTrip s t.number).isSome then some (refuse .conflict)
            else if Config.maxTrips ≤ s.store.trips.length then some (refuseReason .full 15)
            else if Config.maxEntries < entryCount s.store.trips + t.entries.length then some (refuseReason .full 16)
            else none

/-- The trip as it is stored (R35). -/
def newTrip (t : TripFields) : Trip :=
  { number := t.number, dayMask := t.dayMask, next := t.next, run := .planned, damaged := false, train := none, rolled := false,
    entries := t.entries.map (fun e => { coded := e, bits := .clean, status := .pending }) }

/-- A trip is stored; the scrub position of an empty store is put at its first entry (R35, R47). -/
def storeTrip (t : TripFields) (s : State) : State :=
  { s with store := { s.store with
      trips := placeTrip (newTrip t) s.store.trips
      scrub := if s.store.trips.isEmpty then some { trip := t.number, index := 0 } else s.store.scrub } }

/-- The Timetable Store's part of LOAD_TRIP (R35). -/
def loadTripOwner (t : TripFields) (s : State) : State × Reply :=
  match loadRefusal t s with
  | some r => (s, r)
  | none =>
    let s1 := storeTrip t s
    (s1, .accept [u16 t.number, u16 (tripPosition s1 t.number), u16 s1.store.trips.length, u16 (entryCount s1.store.trips)])

/-- LOAD_TRIP. -/
def execLoadTrip (h : Hdr) (t : TripFields) (s : State) : Host.Outcome State Fault Refusal :=
  .next (request .loadTrip h .lineWide (loadTripOwner t) s)

/-! ## CANCEL_TRIP (R36) -/

/-- The run state of a trip as its number. -/
def runItem (s : State) (n : Nat) : Item := u8 (((findTrip s n).map (fun t => t.run.code)).getD 0)

/-- The Timetable Store's part of CANCEL_TRIP (R36, R58). -/
def cancelTripOwner (n : Nat) (s : State) : State × Reply :=
  match findTrip s n with
  | none => (s, refuse .unknown)
  | some t =>
    match t.run with
    | .planned =>
      let s1 := modTrip n (fun t => { t with run := .cancelled }) s
      (s1, .accept (runItem s1 n :: tripNumber none))
    | .running =>
      let s1 := endRun n .cancelled s
      let s2 := match t.train with
        | some k => unschedule k s1
        | none => s1
      (s2, .accept (runItem s2 n :: tripNumber t.train))
    | .cancelled => (s, .accept (runItem s n :: tripNumber none))
    | .done => (s, refuse .state)

/-- CANCEL_TRIP. -/
def execCancelTrip (h : Hdr) (n : Nat) (s : State) : Host.Outcome State Fault Refusal :=
  .next (request .cancelTrip h .lineWide (cancelTripOwner n) s)

/-! ## RETIME_TRIP (R37, R38) -/

/-- A replacement as an entry, its profile left to `p`. -/
def asEntry (p : Nat) (r : Replacement) : EntryFields :=
  { stop := r.stop, sa := r.sa, sd := r.sd, dmin := r.dmin, dmax := r.dmax, profile := p }

/-- The replacement for entry `j`, if that entry is replaced. -/
def replacementAt (start : Nat) (reps : List Replacement) (j : Nat) : Option Replacement :=
  if j < start then none else reps[j - start]?

/-- The stop point that entry `j` has once the replacements are made, an entry not replaced being read (R37, row 5). That a neighbour
replaced by the same request has the stop point given for it, and not the one held, is a DESIGN CHOICE (log 17). -/
def stopAfter (n start : Nat) (reps : List Replacement) (j : Nat) (s : State) : State × Option Nat :=
  match replacementAt start reps j with
  | some r => (s, some r.stop)
  | none =>
    let q := readEntry n j s
    (q.1, q.2.map EntryView.stop)

/-- Some link joins two stop points, where both are known. -/
def joined (s : State) (a b : Option Nat) : Bool :=
  match a, b with
  | some p, some q => (linkBetween s p q).isSome
  | _, _ => true

/-- Row 5 of R37 for the replacement of one unreadable entry `j`. Both neighbours that are not replaced are read before either link is
tested (DESIGN CHOICE, log 17). -/
def checkUnreadable (n start : Nat) (reps : List Replacement) (j p : Nat) (s : State) : State × Option Reply :=
  if !thas s.lds.stops p then (s, some (refuseEntry .unknown j 0))
  else
    let a := if j = 0 then (s, none) else stopAfter n start reps (j - 1) s
    let b := if j + 1 < tripLength s n then stopAfter n start reps (j + 1) a.1 else (a.1, none)
    if joined b.1 a.2 (some p) && joined b.1 (some p) b.2 then (b.1, none) else (b.1, some (refuseEntry .range j 0))

/-- Row 5 of R37: the replaced entries are read in running order from `j` on, up to the first failure. -/
def checkStops (n start : Nat) (reps : List Replacement) : Nat → List Replacement → State → State × Option Reply
  | _, [], s => (s, none)
  | j, r :: rest, s =>
    let q := readEntry n j s
    match q.2 with
    | none => (q.1, some (refuse .range))
    | some v =>
      let c := match v.coded with
        | some e => (q.1, if e.stop = r.stop then none else some (refuseEntry .range j 0))
        | none => checkUnreadable n start reps j r.stop q.1
      match c.2 with
      | some e => (c.1, some e)
      | none => checkStops n start reps (j + 1) rest c.1

/-- The times of a trip as it would stand, entries not replaced being read and unreadable ones left out (R37, row 6). -/
def timesAfter (n start : Nat) (reps : List Replacement) : List Nat → State → State × List (Nat × Nat × Nat)
  | [], s => (s, [])
  | j :: rest, s =>
    let a := match replacementAt start reps j with
      | some r => (s, entryTimes j (asEntry 0 r))
      | none =>
        let q := readEntry n j s
        (q.1, ((q.2.bind EntryView.coded).map (entryTimes j)).getD [])
    let b := timesAfter n start reps rest a.1
    (b.1, a.2 ++ b.2)

/-- The refusal by rows 1 to 4 of R37, which read no coded content. What the detail of rows 1, 2 and 4 names is a DESIGN CHOICE (log 11). -/
def retimeRefusal (start : Nat) (reps : List Replacement) (t : Trip) : Option Reply :=
  if reps.isEmpty then some (refuseField 2)
  else if t.entries.length < start + reps.length then some (refuseField 1)
  else
    match firstBadEntry (fun i e => badEntry t.entries.length (start + i) e) 0 (reps.map (asEntry 0)) with
    | some (i, f) => some (refuseEntry .range (start + i) f)
    | none =>
      if t.run = .running then
        (indexWhere (fun e : Entry => e.status ≠ .pending) ((t.entries.drop start).take reps.length)).map
          (fun i => refuseEntryOnly .state (start + i))
      else none

/-- One replacement is written with a fresh check code, its status kept; an entry that was unreadable takes a free value as its
nominal profile (R38, log 7). -/
def writeReplacement (n j : Nat) (r : Replacement) (s : State) : State :=
  match (findTrip s n).bind (fun t => t.entries[j]?) with
  | none => s
  | some e =>
    if e.bits = .unreadable then
      { modEntry n j (fun e => { e with bits := .clean, coded := asEntry (Config.repairedProfile s.freeCount).val r }) s with
        freeCount := s.freeCount + 1 }
    else modEntry n j (fun e => { e with bits := .clean, coded := asEntry e.coded.profile r }) s

/-- The replacements are written from entry `j` on. -/
def writeReplacements (n : Nat) : Nat → List Replacement → State → State
  | _, [], s => s
  | j, r :: rest, s => writeReplacements n (j + 1) rest (writeReplacement n j r s)

/-- The trip takes its place again in store order (R38). -/
def rePlace (n : Nat) (s : State) : State :=
  match findTrip s n with
  | none => s
  | some t => { s with store := { s.store with trips := placeTrip t (s.store.trips.filter (fun q => q.number ≠ n)) } }

/-- An accepted RETIME_TRIP (R38). -/
def retime (n start : Nat) (reps : List Replacement) (s : State) : State :=
  let s1 := writeReplacements n start reps s
  let s2 := if start = 0 && reps.length = tripLength s n then modTrip n (fun t => { t with damaged := false }) s1 else s1
  rePlace n s2

/-- The Timetable Store's part of RETIME_TRIP (R37, R38). -/
def retimeTripOwner (n start : Nat) (reps : List Replacement) (s : State) : State × Reply :=
  match findTrip s n with
  | none => (s, refuse .unknown)
  | some t =>
    match retimeRefusal start reps t with
    | some r => (s, r)
    | none =>
      let c := checkStops n start reps start reps s
      match c.2 with
      | some r => (c.1, r)
      | none =>
        let q := timesAfter n start reps (List.range t.entries.length) c.1
        match firstFall 0 q.2 with
        | some (i, f) => (q.1, refuseEntry .range i f)
        | none =>
          let s1 := retime n start reps q.1
          (s1, .accept [u16 (tripPosition s1 n), flag ((findTrip s1 n).any Trip.damaged)])

/-- RETIME_TRIP. -/
def execRetimeTrip (h : Hdr) (n start : Nat) (reps : List Replacement) (s : State) : Host.Outcome State Fault Refusal :=
  .next (request .retimeTrip h .lineWide (retimeTripOwner n start reps) s)

/-! ## ERASE_TIMETABLE (R39) -/

/-- The trips in a run state. -/
def tripsIn (s : State) (r : RunState) : Nat := (s.store.trips.filter (fun t => t.run = r)).length

/-- The Timetable Store's part of ERASE_TIMETABLE (R39). -/
def eraseOwner (s : State) : State × Reply :=
  if 0 < tripsIn s .running then (s, refuseCount .state (tripsIn s .running))
  else
    ({ s with store := { s.store with trips := [], scrub := none } },
      .accept [u16 s.store.trips.length, u16 (entryCount s.store.trips)])

/-- ERASE_TIMETABLE. -/
def execEraseTimetable (h : Hdr) (s : State) : Host.Outcome State Fault Refusal :=
  .next (request .eraseTimetable h .lineWide eraseOwner s)

/-! ## READ_TRIP (R48) -/

/-- An entry as READ_TRIP gives it: an unreadable one has its stop point and status alone (R48, log 10). -/
def entryItems (e : Entry) : List Item :=
  if e.bits = .unreadable then [u8 e.coded.stop, u8 0, u8 0, u8 0, u8 0, u8 0, u8 e.status.code, flag true]
  else
    [u8 e.coded.stop] ++ optional (fun v => [u32 v]) e.coded.sa ++ optional (fun v => [u32 v]) e.coded.sd
      ++ [u8 1, u16 e.coded.dmin, u8 1, u16 e.coded.dmax, u8 1, u8 e.coded.profile, u8 e.status.code, flag false]

/-- A trip with every field of R32, its stop list in its place. -/
def tripRecordItems (t : Trip) : List Item :=
  [u16 t.number, maskItem 1 t.dayMask] ++ listed entryItems t.entries ++ tripNumber t.next ++ [u8 t.run.code, flag t.damaged]
    ++ tripNumber t.train ++ [flag t.rolled]

/-- Every entry of a trip is read and checked, in running order. -/
def readAll (n : Nat) (s : State) : State := (List.range (tripLength s n)).foldl (fun s i => (readEntry n i s).1) s

/-- A trip is read and given as it then stands, after some first items. -/
def readTrip (first : List Item) (n : Nat) (s : State) : State × Reply :=
  let s1 := readAll n s
  match findTrip s1 n with
  | none => (s1, refuse .unknown)
  | some t => (s1, .accept (first ++ tripRecordItems t))

/-- The Timetable Store's part of READ_TRIP BY_NUMBER. -/
def readTripByNumberOwner (n : Nat) (s : State) : State × Reply :=
  if (findTrip s n).isSome then readTrip [] n s else (s, refuse .unknown)

/-- READ_TRIP BY_NUMBER. -/
def execReadTripByNumber (h : Hdr) (n : Nat) (s : State) : Host.Outcome State Fault Refusal :=
  .next (request .readTrip h (.anyArea .monitor) (readTripByNumberOwner n) s)

/-- The trip after trip `n` in store order, or the first for 0. -/
def tripAfter (s : State) (n : Nat) : Option Trip :=
  if n = 0 then s.store.trips.head? else s.store.trips[tripPosition s n + 1]?

/-- The Timetable Store's part of READ_TRIP NEXT: an end indication, then the trip where there is one (R48; DESIGN CHOICE, log 10). -/
def readTripNextOwner (n : Nat) (s : State) : State × Reply :=
  if n ≠ 0 ∧ (findTrip s n).isNone then (s, refuse .unknown)
  else
    match tripAfter s n with
    | none => (s, .accept [flag true])
    | some t => readTrip [flag false] t.number s

/-- READ_TRIP NEXT. -/
def execReadTripNext (h : Hdr) (n : Nat) (s : State) : Host.Outcome State Fault Refusal :=
  .next (request .readTrip h (.anyArea .monitor) (readTripNextOwner n) s)

/-- What READ_TRIP STORE returns (R48); the scrub position, which may be none, is laid out as an optional field (log 10). -/
def storeItems (s : State) : List Item :=
  [u16 s.store.trips.length, u16 (entryCount s.store.trips), u8 s.store.corrected, u8 s.store.wear]
    ++ optional (fun p => [u16 p.trip, u8 p.index]) s.store.scrub
    ++ [u16 (tripsIn s .planned), u16 (tripsIn s .running), u16 (tripsIn s .done), u16 (tripsIn s .cancelled),
      u16 (s.store.trips.filter Trip.damaged).length]

/-- READ_TRIP STORE. -/
def execReadTripStore (h : Hdr) (s : State) : Host.Outcome State Fault Refusal :=
  .next (request .readTrip h (.anyArea .monitor) (fun s => (s, .accept (storeItems s))) s)

/-! ## The scrub (R47) -/

/-- SCRUB: due once after each tick at a whole second (log 20). -/
def execScrub (s : State) : Host.Outcome State Fault Refusal :=
  .next (if s.live && s.scrubDue then scrubOnce { s with scrubDue := false } else s)

end Sys2Proof.Machine
end

