-- ==== Sys2Proof/Machine/IncidentCmds.lean ====
section
/-! DEFINITION. The Incident Manager's requests, its trip inputs' events and its lifting (R135 to R156). -/

namespace Sys2Proof.Machine

/-! ## Trip inputs (R135, R193) -/

/-- The level of a trip input's pin. -/
def setPin (n : Nat) (on : Bool) (s : State) : State := { s with tripPins := vmod s.tripPins n (fun _ => on) }

/-- TRIP_INPUT_ACTIVE: the pin goes active, and a part that acts starts qualifying (R135, R157). -/
def execTripInputActive (n : Nat) (s : State) : Host.Outcome State Fault Refusal :=
  .next (let s1 := setPin n true s; if s.live then inputActive n s1 else s1)

/-- TRIP_INPUT_INACTIVE: the pin goes inactive, and the input is IDLE (R135, R137). -/
def execTripInputInactive (n : Nat) (s : State) : Host.Outcome State Fault Refusal :=
  .next (let s1 := setPin n false s; if s.live then inputInactive n s1 else s1)

/-- TRIP_QUALIFICATION: the qualification time of a QUALIFYING input is reached (R135, R137; log 19). -/
def execTripQualification (n : Nat) (s : State) : Host.Outcome State Fault Refusal :=
  .next (if s.live && (s.inm.inputs[n]?).any (fun t => t.qual = .qualifying) then qualify n s else s)

/-- PER_CYCLE_LIFT: due once after each tick at a whole second (R146, log 20). -/
def execPerCycleLift (s : State) : Host.Outcome State Fault Refusal :=
  .next (if s.live && s.liftDue then perCycleLift { s with liftDue := false } else s)

/-! ## Settings (R136, R138, R152) -/

/-- Mode, targets, action and severity of a trip input. -/
def capturedItems (c : Captured) : List Item :=
  [u8 (Mode.code c.mode), maskItem 3 c.targets, u8 (Action.code c.action), u8 (Severity.code c.severity)]

/-- The five settings of a trip input. -/
def inputSettings (t : TripInput) : List Item := u8 t.qualTime :: capturedItems t.set

/-- The Incident Manager's part of SET_TRIP_INPUT (R136). -/
def setTripInputOwner (n : Nat) (f : TripInputFields) (s : State) : State × Reply :=
  match badTripInput n f with
  | some k => (s, refuseField k)
  | none =>
    let c : Captured :=
      { mode := Enum.get .latched f.mode, targets := normSet 24 f.targets, action := Enum.get .none f.action,
        severity := Enum.get .minor f.severity }
    let s1 := modInput n (fun t => { t with qualTime := f.qualTime, set := c }) s
    (s1, .accept (u8 f.qualTime :: capturedItems c))

/-- SET_TRIP_INPUT. -/
def execSetTripInput (h : Hdr) (n : Nat) (f : TripInputFields) (s : State) : Host.Outcome State Fault Refusal :=
  .next (request .setTripInput h .lineWide (setTripInputOwner n f) s)

/-- The five settings of a detection kind. -/
def kindItems (k : DetectionKind) : List Item :=
  [u8 (Handling.code k.handling), u8 (Severity.code k.severity), u8 (Action.code k.action), u8 (Mode.code k.mode),
    u8 (Scope.code k.scope)]

/-- The settings a request's fields give. -/
def kindOf (f : DetectionKindFields) : DetectionKind :=
  { handling := Enum.get .direct f.handling, severity := Enum.get .minor f.severity, action := Enum.get .none f.action,
    mode := Enum.get .perCycle f.mode, scope := Enum.get .stopSection f.scope }

/-- The Incident Manager's part of SET_DETECTION_KIND (R138). The rule names no result; that the reply gives the five settings is a DESIGN
CHOICE (log 10). -/
def setDetectionKindOwner (k : Nat) (f : DetectionKindFields) (s : State) : State × Reply :=
  match badDetectionKind k f with
  | some i => (s, refuseField i)
  | none =>
    ({ s with inm := { s.inm with kinds := vmod s.inm.kinds k (fun _ => kindOf f) } }, .accept (kindItems (kindOf f)))

/-- SET_DETECTION_KIND. -/
def execSetDetectionKind (h : Hdr) (k : Nat) (f : DetectionKindFields) (s : State) : Host.Outcome State Fault Refusal :=
  .next (request .setDetectionKind h .lineWide (setDetectionKindOwner k f) s)

/-- A channel with six new settings and its count at 0 (R152). -/
def setChannelFields (f : EscalationFields) (c : Channel) : Channel :=
  { c with
    kind := f.kind
    filter := f.filter
    period := f.period
    count := 0
    severity := Enum.get .minor f.severity
    action := Enum.get .none f.action
    mode := Enum.get .perCycle f.mode }

/-- The settings of a channel as its reply gives them, with the count last. -/
def channelSettings (c : Channel) : List Item :=
  [u8 c.kind] ++ orAny u8 c.filter
    ++ [u8 c.period, u8 (Severity.code c.severity), u8 (Action.code c.action), u8 (Mode.code c.mode), u8 c.count]

/-- The stop point that a filter names, if it names one, is defined. -/
def OrAny.definedStop (s : State) : OrAny → Bool
  | .num p => thas s.lds.stops p
  | .any => true

/-- The Incident Manager's part of SET_ESCALATION (R152). A filter that names an undefined stop point is refused with UNKNOWN (R10), its
range being judged first (log 13). -/
def setEscalationOwner (c : Nat) (f : EscalationFields) (s : State) : State × Reply :=
  match badEscalation c f with
  | some i => (s, refuseField i)
  | none =>
    if !OrAny.definedStop s f.filter then (s, refuse .unknown) else
    let s1 := modChannel c (setChannelFields f) s
    (s1, .accept (((s1.inm.channels[c]?).map channelSettings).getD []))

/-- SET_ESCALATION. -/
def execSetEscalation (h : Hdr) (c : Nat) (f : EscalationFields) (s : State) : Host.Outcome State Fault Refusal :=
  .next (request .setEscalation h .lineWide (setEscalationOwner c f) s)

/-! ## DETECTION (R139, R153) -/

/-- The event kinds: DOOR_OBSTRUCTION, PASSENGER_ALARM and TRAIN_FAULT (R138). -/
def eventKind (k : Nat) : Bool := k = 0 || k = 2 || k = 6

/-- A detection of kind `k` at stop point `p` matches a channel (R153). -/
def Channel.fits (k p : Nat) (c : Channel) : Bool := decide (1 ≤ c.period) && decide (c.kind = k) && OrAny.fits c.filter p

/-- The channels a detection matches (R153), in rising number (DESIGN CHOICE, log 40). -/
def matching (s : State) (k p : Nat) : List Nat :=
  (List.range 16).filter (fun c => (s.inm.channels[c]?).any (Channel.fits k p))

/-- The channels count a detection, each counting and raising before the next (R153; DESIGN CHOICE, log 40). -/
def countEach (p : Nat) (l : List Nat) (s : State) : State := l.foldl (fun s c => (countDetection c p s).1) s

/-- A channel and its count; the channels of a COUNTED report are a counted list of these (R139; DESIGN CHOICE, log 10). -/
def countItems (s : State) (c : Nat) : List Item := [u8 c, u8 (((s.inm.channels[c]?).map Channel.count).getD 0)]

/-- The incident a detection of kind `k` raises directly (R139). -/
def detectionRaise (s : State) (k p : Nat) (d : DetectionKind) : Raise :=
  { source := { kind := .detection, number := k }, loc := .stop p, severity := d.severity, action := d.action,
    targets := scopeTargets s d.scope p, mode := d.mode, condition := !eventKind k }

/-- The outcome of a detection in its reply: RAISED 0, MERGED 1, COUNTED 2, ENDED 3, IGNORED 4, TABLE_FULL 5 (log 10). -/
def raiseItems : RaiseOutcome → List Item
  | .new n => [u8 0, u16 n]
  | .merged n => [u8 1, u16 n]
  | .full => [u8 5]

/-- An ACTIVE report (R139). -/
def detectActive (k p : Nat) (s : State) : State × Reply :=
  match s.inm.kinds[k]? with
  | none => (s, refuseField 0)
  | some d =>
    let l := if d.handling = .counted then matching s k p else []
    if l.isEmpty then
      let q := raiseIncident (detectionRaise s k p d) s
      (q.1, .accept (raiseItems q.2))
    else
      let s1 := countEach p l s
      (s1, .accept (u8 2 :: listed (countItems s1) l))

/-- An ENDED report (R139). -/
def detectEnded (k p : Nat) (s : State) : State × Reply :=
  let src : Source := { kind := .detection, number := k }
  if eventKind k then (s, .accept [u8 4])
  else
    match findIncident s.inm.incidents src (.stop p) with
    | none => (s, .accept [u8 4])
    | some e => (endCondition src (.stop p) s, .accept [u8 3, u16 e.1])

/-- The Incident Manager's part of DETECTION (R139). -/
def detectionOwner (k p : Nat) (r : Enum DetectionReport) (s : State) : State × Reply :=
  if !s.inService then (s, refuse .state)
  else
    match firstBad [k < 16, true, Enum.known r] with
    | some f => (s, refuseField f)
    | none =>
      if !thas s.lds.stops p then (s, refuse .unknown)
      else
        match r with
        | .val .active => detectActive k p s
        | .val .ended => detectEnded k p s
        | .outside _ => (s, refuseField 2)

/-- DETECTION. -/
def execDetection (h : Hdr) (k p : Nat) (r : Enum DetectionReport) (s : State) : Host.Outcome State Fault Refusal :=
  .next (request .detection h (.inArea .monitor (stopArea s p)) (detectionOwner k p r) s)

/-! ## RAISE_INCIDENT (R141) -/

/-- The location of a RAISE_INCIDENT as an incident's. -/
def raiseLoc : RaiseLocation → IncidentLoc
  | .stop n => .stop n
  | .sect n => .sect n

/-- The location's number is in its range. -/
def okRaiseLoc : RaiseLocation → Bool
  | .stop n => n < 64
  | .sect n => n < 24

/-- The location is defined. -/
def definedLoc (s : State) : RaiseLocation → Bool
  | .stop n => thas s.lds.stops n
  | .sect n => thas s.lds.sections n

/-- The area of a location (R141). -/
def raiseLocArea (s : State) : RaiseLocation → Option Nat
  | .stop n => stopArea s n
  | .sect n => sectArea s n

/-- The Incident Manager's part of RAISE_INCIDENT (R141): NEW 0 or MERGED 1. -/
def raiseOwner (desk : Nat) (v : Enum Severity) (a : Enum Action) (targets : List Nat) (loc : RaiseLocation) (s : State) :
    State × Reply :=
  if !s.inService then (s, refuse .state)
  else
    match firstBad [Enum.known v, Enum.known a, setBelow 24 targets, okRaiseLoc loc] with
    | some f => (s, refuseField f)
    | none =>
      if !definedLoc s loc || !targets.all (thas s.lds.sections) then (s, refuse .unknown)
      else
        let r : Raise :=
          { source := { kind := .desk, number := desk }, loc := raiseLoc loc, severity := Enum.get .minor v,
            action := Enum.get .none a, targets := normSet 24 targets, mode := .latched, condition := false }
        if (findIncident s.inm.incidents r.source r.loc).isNone && !hasRoom s then (s, refuse .full)
        else
          let q := raiseIncident r s
          (q.1, match q.2 with
            | .new n => .accept [u16 n, u8 0]
            | .merged n => .accept [u16 n, u8 1]
            | .full => refuse .full)

/-- RAISE_INCIDENT. -/
def execRaiseIncident (h : Hdr) (v : Enum Severity) (a : Enum Action) (targets : List Nat) (loc : RaiseLocation) (s : State) :
    Host.Outcome State Fault Refusal :=
  .next (request .raiseIncident h
    (.several .operate (raiseLocArea s loc :: areasOf (sectArea s) (normSet 256 targets)))
    (raiseOwner h.desk v a targets loc) s)

/-! ## ACK_INCIDENT and CLEAR_INCIDENT (R148) -/

/-- The entry's state after the request; one that the request removed is given as REMOVED 3. -/
def afterItem (s : State) (n : Nat) : Item := u8 (((tget s.inm.incidents n).map (fun i => i.state.code)).getD 3)

/-- An entry of the table changed. -/
def modIncident (n : Nat) (f : Incident → Incident) (s : State) : State :=
  { s with inm := { s.inm with incidents := tmod s.inm.incidents n f } }

/-- ACK_INCIDENT by state (R148). -/
def acknowledge (desk n : Nat) (i : Incident) (s : State) : State :=
  match i.state with
  | .active =>
    refreshIncidents (modIncident n (fun i => { i with state := .acked, ack := some { desk := desk, count := s.now } }) s)
  | .acked => s
  | .lifted => removeIncident n s

/-- The Incident Manager's part of ACK_INCIDENT (R148). -/
def ackOwner (desk n : Nat) (s : State) : State × Reply :=
  match tget s.inm.incidents n with
  | none => (s, refuse .unknown)
  | some i =>
    let s1 := acknowledge desk n i s
    (s1, .accept [if i.state = .lifted then u8 3 else afterItem s1 n])

/-- ACK_INCIDENT. -/
def execAckIncident (h : Hdr) (n : Nat) (s : State) : Host.Outcome State Fault Refusal :=
  .next (request .ackIncident h (.inArea .operate (incidentAreaOf s n)) (ackOwner h.desk n) s)

/-- The Incident Manager's part of CLEAR_INCIDENT (R148): the state after it, and STILL_PRESENT as an indication of its own behind it in
every accepted reply, a DESIGN CHOICE (log 10). -/
def clearOwner (n : Nat) (s : State) : State × Reply :=
  match tget s.inm.incidents n with
  | none => (s, refuse .unknown)
  | some i =>
    if i.mode = .perCycle then (s, refuse .state)
    else if i.state = .lifted then (s, .accept [afterItem s n, flag false])
    else if i.condition then
      let s1 := modIncident n (fun i => { i with recurrences := satSucc 255 i.recurrences }) s
      (s1, .accept [afterItem s1 n, flag true])
    else
      let s1 := liftIncident n s
      (s1, .accept [if i.state = .acked then u8 3 else afterItem s1 n, flag false])

/-- CLEAR_INCIDENT. -/
def execClearIncident (h : Hdr) (n : Nat) (s : State) : Host.Outcome State Fault Refusal :=
  .next (request .clearIncident h (.inArea .full (incidentAreaOf s n)) (clearOwner n) s)

/-! ## TEST_DETECTION (R155) -/

/-- The Incident Manager's part of TEST_DETECTION (R155): the count after it, and the incident where a raise was made. -/
def testDetectionOwner (c p : Nat) (s : State) : State × Reply :=
  if !s.inService then (s, refuse .state)
  else
    match s.inm.channels[c]? with
    | none => (s, refuseField 0)
    | some ch =>
      if !thas s.lds.stops p then (s, refuse .unknown)
      else if ch.period = 0 then (s, refuse .state)
      else
        let q := countDetection c p s
        (q.1, .accept (u8 (((q.1.inm.channels[c]?).map Channel.count).getD 0) :: tripNumber (q.2.bind RaiseOutcome.number)))

/-- TEST_DETECTION. -/
def execTestDetection (h : Hdr) (c p : Nat) (s : State) : Host.Outcome State Fault Refusal :=
  .next (request .testDetection h (.inArea .operate (stopArea s p)) (testDetectionOwner c p) s)

/-! ## READ_INCIDENTS (R156) -/

/-- The location of an incident: selector 0 a stop point, 1 a section, 2 a zone, 3 a trip, 4 none. -/
def incidentLocItems : IncidentLoc → List Item
  | .stop n => [u8 0, u8 n]
  | .sect n => [u8 1, u8 n]
  | .zone n => [u8 2, u8 n]
  | .trip n => [u8 3, u16 n]
  | .none => [u8 4]

/-- An incident record with every field of R142; a present condition is 0, an absent one 1 (log 10). -/
def incidentItems (n : Nat) (i : Incident) : List Item :=
  [u16 n, u8 (SourceKind.code i.source.kind), u16 i.source.number] ++ incidentLocItems i.loc
    ++ [u8 (Severity.code i.severity), u8 (Action.code i.action), maskItem 3 i.targets, u8 (Mode.code i.mode),
      u8 (if i.condition then 0 else 1), u8 i.state.code]
    ++ optional (fun a => [u8 a.desk, count32 a.count]) i.ack ++ [count32 i.raised, u8 i.recurrences]

/-- The entries a desk may see (R156). -/
def visibleIncidents (desk : Nat) (s : State) : Table Incident :=
  s.inm.incidents.filter (fun e => holdsAt s desk .monitor (incidentArea s e.2))

/-- READ_INCIDENTS TABLE clears the table-full indication after copying it (R156). -/
def readTableOwner (desk : Nat) (s : State) : State × Reply :=
  (refreshIncidents { s with inm := { s.inm with tableFull := false } },
    .accept (listed (fun e => incidentItems e.1 e.2) (visibleIncidents desk s)
      ++ [flag s.inm.tableFull, u8 s.inm.incidents.length]))

/-- READ_INCIDENTS TABLE. -/
def execReadIncidentsTable (h : Hdr) (s : State) : Host.Outcome State Fault Refusal :=
  .next (request .readIncidents h (.anyArea .monitor) (readTableOwner h.desk) s)

/-- The Incident Manager's part of READ_INCIDENTS ONE. -/
def readOneOwner (n : Nat) (s : State) : State × Reply :=
  match tget s.inm.incidents n with
  | none => (s, refuse .unknown)
  | some i => (s, .accept (incidentItems n i))

/-- READ_INCIDENTS ONE. -/
def execReadIncidentsOne (h : Hdr) (n : Nat) (s : State) : Host.Outcome State Fault Refusal :=
  .next (request .readIncidents h (.inArea .monitor (incidentAreaOf s n)) (readOneOwner n) s)

/-- A trip input as READ_INCIDENTS SOURCES gives it. -/
def inputItems (t : TripInput) : List Item :=
  inputSettings t ++ [u8 t.qual.code, flag t.inForce] ++ optional capturedItems t.captured ++ tripNumber t.entry

/-- What READ_INCIDENTS SOURCES returns (R156). The level of LINE STOP as one byte, 1 for asserted although the pin is active low, is a
DESIGN CHOICE (log 10). -/
def sourcesItems (s : State) : List Item :=
  s.inm.inputs.toList.flatMap inputItems ++ s.inm.kinds.toList.flatMap kindItems ++ [flag s.inm.lineStop]

/-- READ_INCIDENTS SOURCES. -/
def execReadIncidentsSources (h : Hdr) (s : State) : Host.Outcome State Fault Refusal :=
  .next (request .readIncidents h (.anyArea .monitor) (fun s => (s, .accept (sourcesItems s))) s)

/-- A channel with every field of R152. -/
def channelItems (c : Channel) : List Item :=
  [u8 c.kind] ++ orAny u8 c.filter
    ++ [u8 c.period, u8 c.count, u8 (Severity.code c.severity), u8 (Action.code c.action), u8 (Mode.code c.mode)]
    ++ tripNumber c.openIncident ++ optional (fun p => [u8 p]) c.lastStop

/-- READ_INCIDENTS CHANNELS. -/
def execReadIncidentsChannels (h : Hdr) (s : State) : Host.Outcome State Fault Refusal :=
  .next (request .readIncidents h (.anyArea .monitor) (fun s => (s, .accept (s.inm.channels.toList.flatMap channelItems))) s)

end Sys2Proof.Machine
end

