-- ==== Sys2Proof/Machine/AnnounceCmds.lean ====
section
/-! DEFINITION. The Announcement Controller's requests and timers (R159, R161 to R166, R170, R172). -/

namespace Sys2Proof.Machine

/-! ## Timers -/

/-- The playing-until of a station's channel is reached (R162). -/
def playDue (now : Count) (c : StationChannel) : Bool := c.playing.any (fun p => reached now p.ending)

/-- PLAY_COMPLETION (R162). -/
def execPlayCompletion (st : Nat) (s : State) : Host.Outcome State Fault Refusal :=
  .next (if s.live && (tget s.anc.channels st).any (playDue s.now) then completePlay st s else s)

/-- The not-before of a queue entry is reached and its event not taken yet (R161, log 21). -/
def notBeforeDue (now : Count) (e : QueueEntry) : Bool := !e.notBeforeTaken && reachedOpt now e.notBefore

/-- The entry of a station's queue with a join sequence. -/
def queuedAt (s : State) (st : Nat) (seq : Count) : Option QueueEntry :=
  (tget s.anc.channels st).bind (fun c => c.queue.find? (fun e => e.seq = seq))

/-- The not-before of a queue entry is reached (R161, R163). -/
def takeNotBefore (st : Nat) (seq : Count) (e : QueueEntry) (s : State) : State :=
  becameReady st e { s with anc := { s.anc with
    channels := tmod s.anc.channels st (fun c =>
      { c with queue := c.queue.map (fun q => if q.seq = seq then { q with notBeforeTaken := true } else q) }) } }

/-- NOT_BEFORE_REACHED. -/
def execNotBeforeReached (st : Nat) (seq : Count) (s : State) : Host.Outcome State Fault Refusal :=
  .next (match queuedAt s st seq with
    | some e => if s.live && notBeforeDue s.now e then takeNotBefore st seq e s else s
    | none => s)

/-- QUEUE_ENTRY_EXPIRY: an entry whose expiry is reached leaves its queue (R158, R160). -/
def execQueueEntryExpiry (st : Nat) (seq : Count) (s : State) : Host.Outcome State Fault Refusal :=
  .next (if s.live && (queuedAt s st seq).any (fun e => reachedOpt s.now e.expiry) then
      { s with anc := { s.anc with
        channels := tmod s.anc.channels st (fun c => { c with queue := c.queue.filter (fun e => e.seq ≠ seq) }) } }
    else s)

/-! ## Settings -/

/-- The Announcement Controller's part of SET_TEMPLATE (R159). -/
def setTemplateOwner (n : Nat) (d : Definition TemplateFields) (s : State) : State × Reply :=
  match d with
  | .removal =>
    if n < 256 then ({ s with anc := { s.anc with templates := tdel s.anc.templates n } }, .accept [])
    else (s, refuseField 0)
  | .fields f =>
    match badTemplate n f with
    | some k => (s, refuseField k)
    | none => ({ s with anc := { s.anc with templates := tput s.anc.templates n f } }, .accept [])

/-- SET_TEMPLATE. -/
def execSetTemplate (h : Hdr) (n : Nat) (d : Definition TemplateFields) (s : State) : Host.Outcome State Fault Refusal :=
  .next (request .setTemplate h .lineWide (setTemplateOwner n d) s)

/-- The map entry a request's fields give. -/
def planFrom (f : PlanFields) : Plan :=
  { source := Enum.get .trip f.source, number := f.number, minSeverity := Enum.get .minor f.minSeverity, opening := f.opening,
    reminder := f.reminder, interval := f.interval, resumed := f.resumed }

/-- The Announcement Controller's part of SET_ANNOUNCE_PLAN (R166). -/
def setPlanOwner (n : Nat) (d : Definition PlanFields) (s : State) : State × Reply :=
  match d with
  | .removal =>
    if n < 32 then ({ s with anc := { s.anc with plans := tdel s.anc.plans n } }, .accept []) else (s, refuseField 0)
  | .fields f =>
    match badPlan n f with
    | some k => (s, refuseField k)
    | none => ({ s with anc := { s.anc with plans := tput s.anc.plans n (planFrom f) } }, .accept [])

/-- SET_ANNOUNCE_PLAN. -/
def execSetAnnouncePlan (h : Hdr) (n : Nat) (d : Definition PlanFields) (s : State) : Host.Outcome State Fault Refusal :=
  .next (request .setAnnouncePlan h .lineWide (setPlanOwner n d) s)

/-- The scheduled entry a request's fields give, fired clear (R170). -/
def scheduledFrom (f : ScheduledFields) : Scheduled :=
  { enabled := f.enabled = 1, dayMask := normSet 7 f.dayMask, hour := f.hour, minute := f.minute, second := f.second,
    mode := Enum.get .once f.mode, stations := normSet 32 f.stations, template := f.template,
    priority := Enum.get .routine f.priority, fired := false }

/-- A scheduled entry with every field of R170. -/
def scheduledItems (e : Scheduled) : List Item :=
  [flag e.enabled, maskItem 1 e.dayMask] ++ orAny u8 e.hour ++ orAny u8 e.minute ++ orAny u8 e.second
    ++ [u8 (SchedMode.code e.mode), maskItem 4 e.stations, u8 e.template, u8 (Priority.code e.priority), flag e.fired]

/-- The Announcement Controller's part of SET_SCHEDULED (R170). -/
def setScheduledOwner (n : Nat) (f : ScheduledFields) (s : State) : State × Reply :=
  match badScheduled n f with
  | some k => (s, refuseField k)
  | none =>
    ({ s with anc := { s.anc with scheduled := vmod s.anc.scheduled n (fun _ => scheduledFrom f) } },
      .accept (scheduledItems (scheduledFrom f)))

/-- SET_SCHEDULED. -/
def execSetScheduled (h : Hdr) (n : Nat) (f : ScheduledFields) (s : State) : Host.Outcome State Fault Refusal :=
  .next (request .setScheduled h .lineWide (setScheduledOwner n f) s)

/-! ## ANNOUNCE (R164) -/

/-- A desk holds OPERATE in a station's area. -/
def mayAddress (s : State) (desk st : Nat) : Bool := holdsAt s desk .operate (stationArea s st)

/-- The RIGHTS refusal of the Announcement Controller, recorded with an area (R177). -/
def refuseStations (k : ReqKind) (desk : Nat) (area : Option Nat) (s : State) : State × Reply :=
  (recordRefusal desk k .operate area s, refuseRights .operate area)

/-- The area a refused ANNOUNCE names: that of the lowest-numbered station named (R177). -/
def firstStationArea (s : State) (stations : List Nat) : Option Nat := stations.head?.bind (stationArea s)

/-- The area a refused CANCEL_ANNOUNCE names: the lowest-numbered one of the stations named, all of which are lacking (R177). -/
def lowestStationArea (s : State) (stations : List Nat) : Option Nat := (stations.filterMap (stationArea s)).min?

/-- The entry an ANNOUNCE queues at each station (R164). -/
def deskEntry (desk template : Nat) (p : Priority) (params : List Nat) (r : Option ReminderFields) : QueueEntry :=
  { plainEntry template p params .desk with
    desk := some desk
    series := some template
    reminder := r.map (fun r => { template := r.template, interval := r.interval, remaining := r.count }) }

/-- The entry joins at each station, the outcomes noted in order. -/
def announceEach (e : QueueEntry) : List Nat → State → State × List (Nat × JoinOutcome)
  | [], s => (s, [])
  | st :: rest, s =>
    let a := joinQueue st e s
    let b := announceEach e rest a.1
    (b.1, (st, a.2) :: b.2)

/-- The outcome at a station: QUEUED 0, EVICTED 1, FULL 2, NO_RIGHTS 3 (log 10). -/
def outcomeCode : Option JoinOutcome → Nat
  | some .queued => 0
  | some .evicted => 1
  | some _ => 2
  | none => 3

/-- The reply to an ANNOUNCE that is taken: the outcome at each station named, or FULL with the stations (R164). The outcomes are a counted
list of stations and outcomes: a DESIGN CHOICE (log 10). -/
def announceReply (named : List Nat) (l : List (Nat × JoinOutcome)) : Reply :=
  if l.all (fun q => outcomeCode (some q.2) = 2) then .refuse .full { Detail.empty with stations := some (l.map Prod.fst) }
  else .accept (listed (fun st => [u8 st, u8 (outcomeCode (tget l st))]) named)

/-- Checks 2 and 3 of R164. That check 3 names the parameters, field 3, is a DESIGN CHOICE (log 11). -/
def announceRefusal (s : State) (stations : List Nat) (template : Nat) (params : List Nat) (r : Option ReminderFields) : Option Reply :=
  if !stations.all (thas s.lds.stations) || !r.all (fun r => thas s.anc.templates r.template) then some (refuse .unknown)
  else
    match tget s.anc.templates template with
    | none => some (refuse .unknown)
    | some t => if params.length = t.params then none else some (refuseField 3)

/-- The Announcement Controller's part of ANNOUNCE (R164). -/
def announceOwner (desk : Nat) (named : List Nat) (template : Nat) (p : Enum Priority) (params : List Nat)
    (r : Option ReminderFields) (s : State) : State × Reply :=
  if !s.inService then (s, refuse .state)
  else
    match badAnnounce named template p params r with
    | some f => (s, refuseField f)
    | none =>
      let stations := normSet 32 named
      match announceRefusal s stations template params r with
      | some e => (s, e)
      | none =>
        let allowed := stations.filter (mayAddress s desk)
        if allowed.isEmpty then refuseStations .announce desk (firstStationArea s stations) s
        else
          let q := announceEach (deskEntry desk template (Enum.get .routine p) params r) allowed s
          (q.1, announceReply stations q.2)

/-- ANNOUNCE: the DRT makes no check of its own (R176). -/
def execAnnounce (h : Hdr) (stations : List Nat) (template : Nat) (p : Enum Priority) (params : List Nat) (r : Option ReminderFields)
    (s : State) : Host.Outcome State Fault Refusal :=
  .next (request .announce h .unchecked (announceOwner h.desk stations template p params r) s)

/-! ## CANCEL_ANNOUNCE (R165) -/

/-- An entry of the series that a desk cancels. -/
def QueueEntry.ofSeries (desk template : Nat) (e : QueueEntry) : Bool :=
  e.origin = .desk && e.desk = some desk && e.series = some template

/-- The cancel at one station, with how many entries left the queue and whether a play was cut. -/
def cancelAt (desk template st : Nat) (s : State) : State × Nat × Bool :=
  match tget s.anc.channels st with
  | none => (s, 0, false)
  | some c =>
    let kept := c.queue.filter (fun e => !e.ofSeries desk template)
    let n := c.queue.length - kept.length
    if c.playing.any (fun p => p.entry.ofSeries desk template) then
      (startAttempt st (setChannel st { c with queue := kept, playing := none } (queueOrder (.cut st) s)), n, true)
    else (setChannel st { c with queue := kept } s, n, false)

/-- The cancel at each station, with its counts, in the order of the list. R165 gives the stations no order: `cancelAnnounceOwner` hands
them over in rising number (DESIGN CHOICE, log 47). -/
def cancelEach (desk template : Nat) : List Nat → State → State × List (Nat × Nat × Bool)
  | [], s => (s, [])
  | st :: rest, s =>
    let a := cancelAt desk template st s
    let b := cancelEach desk template rest a.1
    (b.1, (st, a.2) :: b.2)

/-- The Announcement Controller's part of CANCEL_ANNOUNCE (R165), acting on the stations in rising number (log 47). Its reply lists the stations left out, as a counted list, behind the
counts of the others (DESIGN CHOICE, log 10). -/
def cancelAnnounceOwner (desk : Nat) (named : List Nat) (template : Nat) (s : State) : State × Reply :=
  if !s.inService then (s, refuse .state)
  else
    match firstBad [!named.isEmpty && setBelow 32 named, template < 256] with
    | some f => (s, refuseField f)
    | none =>
      let stations := normSet 32 named
      if !stations.all (thas s.lds.stations) then (s, refuse .unknown)
      else
        let allowed := stations.filter (mayAddress s desk)
        if allowed.isEmpty then refuseStations .cancelAnnounce desk (lowestStationArea s stations) s
        else
          let q := cancelEach desk template allowed s
          (q.1, .accept (listed (fun r => [u8 r.1, u8 r.2.1, flag r.2.2]) q.2
            ++ listed (fun st => [u8 st]) (stations.filter (fun st => !mayAddress s desk st))))

/-- CANCEL_ANNOUNCE. -/
def execCancelAnnounce (h : Hdr) (stations : List Nat) (template : Nat) (s : State) : Host.Outcome State Fault Refusal :=
  .next (request .cancelAnnounce h .unchecked (cancelAnnounceOwner h.desk stations template) s)

/-! ## READ_ANNOUNCE (R172) -/

/-- A reminder's remaining count: selector 0 a number, 1 UNTIL_CLOSED. -/
def remainingItems : Remaining → List Item
  | .count n => [u8 0, u8 n]
  | .untilClosed => [u8 1]

/-- A queue entry with every field of R158. -/
def queueEntryItems (e : QueueEntry) : List Item :=
  [u8 e.template, u8 (Priority.code e.priority)] ++ listed (fun v => [u16 v]) e.params ++ [u8 e.origin.code]
    ++ optional (fun d => [u8 d]) e.desk ++ optional (fun t => [u8 t]) e.series ++ tripNumber e.incident ++ tripNumber e.train
    ++ momentItems e.notBefore ++ momentItems e.expiry
    ++ optional (fun r => [u8 r.template, u16 r.interval] ++ remainingItems r.remaining) e.reminder ++ [count32 e.seq]

/-- A channel: SILENT 0 or PLAYING 1, what plays, and the queue in queue order (R172). The channel state says whether the fields of a play
follow, with no presence byte before them (DESIGN CHOICE, log 10). -/
def stationChannelItems (c : StationChannel) : List Item :=
  (match c.playing with
    | none => [u8 0]
    | some p => u8 1 :: queueEntryItems p.entry ++ [count32 p.start, count32 p.ending, flag p.finishing])
    ++ listed queueEntryItems c.queue

/-- The Announcement Controller's part of READ_ANNOUNCE STATION. -/
def readStationOwner (st : Nat) (s : State) : State × Reply :=
  if !s.inService then (s, refuse .state)
  else
    match tget s.anc.channels st with
    | none => (s, refuse .unknown)
    | some c => (s, .accept (stationChannelItems c))

/-- READ_ANNOUNCE STATION. -/
def execReadAnnounceStation (h : Hdr) (st : Nat) (s : State) : Host.Outcome State Fault Refusal :=
  .next (request .readAnnounce h (.inArea .monitor (stationArea s st)) (readStationOwner st) s)

/-- What READ_ANNOUNCE TEMPLATES returns: for each number, whether it is defined and its values, then the approach template. -/
def templatesItems (s : State) : List Item :=
  (List.range 256).flatMap (fun n => optional (fun t : TemplateFields => [u16 t.length, u8 t.params]) (tget s.anc.templates n))
    ++ [u8 s.anc.approach]

/-- READ_ANNOUNCE TEMPLATES. -/
def execReadAnnounceTemplates (h : Hdr) (s : State) : Host.Outcome State Fault Refusal :=
  .next (request .readAnnounce h (.anyArea .monitor) (fun s => (s, .accept (templatesItems s))) s)

/-- A map entry: selector 0 and its fields, or 1 for empty. -/
def planItems : Option Plan → List Item
  | none => [u8 1]
  | some p =>
    [u8 0, u8 (SourceKind.code p.source)] ++ orAny u16 p.number ++ [u8 (Severity.code p.minSeverity), u8 p.opening]
      ++ optional (fun t => [u8 t]) p.reminder ++ [u16 p.interval] ++ optional (fun t => [u8 t]) p.resumed

/-- A record of the announced-incident list (R172); its four parameters are a counted list (DESIGN CHOICE, log 10). -/
def announcedItems (a : Announced) : List Item :=
  [u16 a.incident, maskItem 4 a.stations] ++ optional (fun t => [u8 t]) a.resumed ++ listed (fun v => [u16 v]) a.params

/-- What READ_ANNOUNCE PLAN returns. -/
def plansItems (s : State) : List Item :=
  (List.range 32).flatMap (fun n => planItems (tget s.anc.plans n)) ++ listed announcedItems s.anc.announced

/-- READ_ANNOUNCE PLAN. -/
def execReadAnnouncePlan (h : Hdr) (s : State) : Host.Outcome State Fault Refusal :=
  .next (request .readAnnounce h (.anyArea .monitor) (fun s => (s, .accept (plansItems s))) s)

/-- READ_ANNOUNCE SCHEDULED. -/
def execReadAnnounceScheduled (h : Hdr) (s : State) : Host.Outcome State Fault Refusal :=
  .next (request .readAnnounce h (.anyArea .monitor) (fun s => (s, .accept (s.anc.scheduled.toList.flatMap scheduledItems))) s)

end Sys2Proof.Machine
end

