-- ==== Sys2Proof/Machine/LineCmds.lean ====
section
/-! DEFINITION. The Line Description's requests: definitions, start and stop of service, RESTART, SET_PARAM and READ_LINE (R9 to R17,
R190). -/

namespace Sys2Proof.Machine

/-! ## Definitions (R9) -/

/-- The line description changed. -/
def modLds (f : Lds → Lds) (s : State) : State := { s with lds := f s.lds }

/-- The reply to an accepted definition: newly defined 0, replaced 1 or removed 2 (R9, log 10). -/
def definedReply (was : Bool) : Reply := .accept [u8 (if was then 1 else 0)]

/-- The reply to an accepted removal. -/
def removedReply : Reply := .accept [u8 2]

/-- The checks and acts common to the definitions of a kind with `limit` numbers (R9): `bad` gives the field out of range, `put` and
`del` write the description. -/
def define {α : Type} (limit n : Nat) (d : Definition α) (bad : α → Option Nat) (was : Bool) (put : α → State → State)
    (del : State → State) (s : State) : State × Reply :=
  if s.inService then (s, refuse .state)
  else
    match d with
    | .removal => if n < limit then (del s, removedReply) else (s, refuseField 0)
    | .fields f =>
      match bad f with
      | some k => (s, refuseField k)
      | none => (put f s, definedReply was)

/-- DEFINE_STATION (R2). -/
def execDefineStation (h : Hdr) (n : Nat) (d : Definition StationFields) (s : State) : Host.Outcome State Fault Refusal :=
  .next (request .defineStation h .lineWide (fun s => define 32 n d (badStation n) (thas s.lds.stations n)
    (fun f => modLds (fun l => { l with stations := tput l.stations n f }))
    (modLds (fun l => { l with stations := tdel l.stations n })) s) s)

/-- DEFINE_STOP (R3). -/
def execDefineStop (h : Hdr) (n : Nat) (d : Definition StopFields) (s : State) : Host.Outcome State Fault Refusal :=
  .next (request .defineStop h .lineWide (fun s => define 64 n d (badStop n) (thas s.lds.stops n)
    (fun f => modLds (fun l => { l with stops := tput l.stops n (stopOf f) }))
    (modLds (fun l => { l with stops := tdel l.stops n })) s) s)

/-- DEFINE_LINK (R4). -/
def execDefineLink (h : Hdr) (n : Nat) (d : Definition LinkFields) (s : State) : Host.Outcome State Fault Refusal :=
  .next (request .defineLink h .lineWide (fun s => define 96 n d (badLink n) (thas s.lds.links n)
    (fun f => modLds (fun l => { l with links := tput l.links n f }))
    (modLds (fun l => { l with links := tdel l.links n })) s) s)

/-- DEFINE_MERGE (R7). -/
def execDefineMerge (h : Hdr) (n : Nat) (d : Definition MergeFields) (s : State) : Host.Outcome State Fault Refusal :=
  .next (request .defineMerge h .lineWide (fun s => define 4 n d (badMerge n) (thas s.lds.merges n)
    (fun f => modLds (fun l => { l with merges := tput l.merges n f }))
    (modLds (fun l => { l with merges := tdel l.merges n })) s) s)

/-- DEFINE_CLASS (R7). -/
def execDefineClass (h : Hdr) (n : Nat) (d : Definition Nat) (s : State) : Host.Outcome State Fault Refusal :=
  .next (request .defineClass h .lineWide (fun s => define 4 n d (badClass n) (thas s.lds.classes n)
    (fun f => modLds (fun l => { l with classes := tput l.classes n f }))
    (modLds (fun l => { l with classes := tdel l.classes n })) s) s)

/-- A section's definition: the first creates its record, occupancy and effective action; a later one keeps them and sets the owed
provings to 0 (R5, R9, R53, R149). -/
def putSection (n : Nat) (f : SectionFields) (s : State) : State :=
  let s1 := modLds (fun l => { l with sections := tput l.sections n f }) s
  if thas s.lds.sections n then modRec n (fun r => { r with owed := 0 }) s1
  else
    { s1 with
      trc := { s1.trc with sections := tput s1.trc.sections n SectRec.init }
      trt := { s1.trt with occupancy := tput s1.trt.occupancy n 0 }
      inm := { s1.inm with effective := tput s1.inm.effective n (computeAction s1.inm n) } }

/-- A section's removal discards its record, occupancy and effective action (R9). -/
def delSection (n : Nat) (s : State) : State :=
  { s with
    lds := { s.lds with sections := tdel s.lds.sections n }
    trc := { s.trc with sections := tdel s.trc.sections n }
    trt := { s.trt with occupancy := tdel s.trt.occupancy n }
    inm := { s.inm with effective := tdel s.inm.effective n } }

/-- A section may be redefined or removed: it is new, or DEAD with no deferred energise (R9). -/
def sectionFree (s : State) (n : Nat) : Bool := (getRec s n).all (fun r => r.state = .dead && r.pending.isNone)

/-- The Line Description's part of DEFINE_SECTION (R9). -/
def defineSectionOwner (n : Nat) (d : Definition SectionFields) (s : State) : State × Reply :=
  let r := define 24 n d (badSection n) (thas s.lds.sections n) (putSection n) (delSection n) s
  match r.2 with
  | .accept _ => if sectionFree s n then r else (s, refuse .state)
  | .refuse _ _ => r

/-- DEFINE_SECTION (R5). -/
def execDefineSection (h : Hdr) (n : Nat) (d : Definition SectionFields) (s : State) : Host.Outcome State Fault Refusal :=
  .next (request .defineSection h .lineWide (defineSectionOwner n d) s)

/-- A zone's definition: the first puts its feed state to NORMAL; a later one keeps it and re-derives the capacity (R6, R9). -/
def putZone (n : Nat) (f : ZoneFields) (s : State) : State :=
  let z := zoneOf f
  let s1 := modLds (fun l => { l with zones := tput l.zones n z }) s
  { s1 with trc := { s1.trc with
      zones := match tget s1.trc.zones n with
        | some r => tput s1.trc.zones n { r with capacity := capacityIn z r.feed }
        | none => tput s1.trc.zones n { feed := .normal, capacity := z.normalCap, measured := none } } }

/-- A zone's removal discards its feed state and ends its FEED_LOST condition (R9, R131). -/
def delZone (n : Nat) (s : State) : State :=
  if thas s.lds.zones n then
    endCondition { kind := .feedLost, number := 0 } (.zone n)
      { s with lds := { s.lds with zones := tdel s.lds.zones n }, trc := { s.trc with zones := tdel s.trc.zones n } }
  else s

/-- DEFINE_ZONE (R6). -/
def execDefineZone (h : Hdr) (n : Nat) (d : Definition ZoneFields) (s : State) : Host.Outcome State Fault Refusal :=
  .next (request .defineZone h .lineWide
    (fun s => define 8 n d (badZone n) (thas s.lds.zones n) (putZone n) (delZone n) s) s)

/-! ## START_SERVICE (R11, R12) -/

/-- A failed check of the topology: object kind, object number, reason (R12, R190). -/
abbrev TopologyFault := Nat × Option Nat × Nat

/-- The first check of a list of (holds, reason) that fails. -/
def firstReason : List (Bool × Nat) → Option Nat
  | [] => none
  | (ok, r) :: l => if ok then firstReason l else some r

/-- The stop points' group. -/
def stopFault (l : Lds) (p : Stop) : Option Nat := firstReason [(thas l.stations p.station, 1), (thas l.sections p.sect, 2)]

/-- The two stop points serve the same direction, or belong to the same station. -/
def sameWay (l : Lds) (a b : Nat) : Bool :=
  match tget l.stops a, tget l.stops b with
  | some p, some q => p.direction = q.direction || p.station = q.station
  | _, _ => false

/-- The links' group. -/
def linkFault (l : Lds) (n : Nat) (k : LinkFields) : Option Nat :=
  firstReason [(thas l.stops k.fromStop, 3), (thas l.stops k.toStop, 4), (thas l.sections k.sect, 2),
    (sameWay l k.fromStop k.toStop, 5),
    (!l.links.any (fun q => q.1 < n && q.2.fromStop = k.fromStop && q.2.toStop = k.toStop), 6)]

/-- The sections' group. -/
def sectionFault (l : Lds) (f : SectionFields) : Option Nat := firstReason [(thas l.zones f.zone, 7)]

/-- A link, where defined, satisfies `p`. -/
def linkSatisfies (l : Lds) (n : Nat) (p : LinkFields → Bool) : Bool := (tget l.links n).any p

/-- The merges' group. -/
def mergeFault (l : Lds) (n : Nat) (m : MergeFields) : Option Nat :=
  firstReason [(thas l.stops m.stop, 8), (thas l.links m.linkA && thas l.links m.linkB, 9),
    (linkSatisfies l m.linkA (fun k => k.toStop = m.stop) && linkSatisfies l m.linkB (fun k => k.toStop = m.stop), 10),
    (linkSatisfies l m.linkA (fun a => linkSatisfies l m.linkB (fun b => a.fromStop ≠ b.fromStop)), 11),
    (!l.merges.any (fun q => q.1 < n && q.2.stop = m.stop), 12)]

/-- The default next links' group. -/
def defaultFault (l : Lds) (n : Nat) (p : Stop) : Option Nat :=
  match p.nextLink with
  | none => none
  | some k => firstReason [(thas l.links k, 9), (linkSatisfies l k (fun q => q.fromStop = n), 13)]

/-- The first failure in a group, taken in rising number. -/
def groupFault {α : Type} (kind : Nat) (f : Nat → α → Option Nat) (t : Table α) : Option TopologyFault :=
  t.findSome? (fun q => (f q.1 q.2).map (fun r => (kind, some q.1, r)))

/-- The topology checks: the first failure, in the order of R12. -/
def topology (l : Lds) : Option TopologyFault :=
  (if l.stops.isEmpty then some (7, none, 0) else none).or
    ((groupFault 1 (fun _ p => stopFault l p) l.stops).or
      ((groupFault 2 (linkFault l) l.links).or
        ((groupFault 3 (fun _ f => sectionFault l f) l.sections).or
          ((groupFault 5 (mergeFault l) l.merges).or (groupFault 1 (defaultFault l) l.stops)))))

/-- The start arbiter START_SERVICE creates for a zone. -/
def freshArbiter (capacity : Nat) : Arbiter := { capacity := capacity, inUse := 0, lastStop := none, starts := [], grants := [] }

/-- An empty headway memory. -/
def freshHeadway : Headway := { last := none, sprev := none, train := none }

/-- The merge record START_SERVICE creates. -/
def freshMerge (m : MergeFields) : MergeRec :=
  { stop := m.stop, linkA := m.linkA, linkB := m.linkB, separation := m.separation, committed := none }

/-- The blocks take up the line (R11). -/
def takeUp (s : State) : State :=
  let s1 := modLds (fun l => { l with lineState := .service }) s
  { s1 with
    gate := { arbiters := tmap s.trc.zones (fun _ r => freshArbiter r.capacity), platformHolds := [] }
    reg := { s.reg with
      headways := tmap s.lds.stops (fun _ _ => freshHeadway), lastRegs := [], merges := tmap s.lds.merges (fun _ m => freshMerge m) }
    anc := { s.anc with channels := tmap s.lds.stations (fun _ _ => StationChannel.init), announced := [] }
    trc := { s.trc with sections := tmap s.trc.sections (fun x r =>
      match tget s.lds.sections x with
      | some f => if r.state = .live then { r with interval := newInterval s1 f } else r
      | none => r) } }

/-- The numbers of defined objects of each kind. -/
def objectCounts (l : Lds) : List Item :=
  [u8 l.stations.length, u8 l.stops.length, u8 l.links.length, u8 l.sections.length, u8 l.zones.length, u8 l.merges.length,
    u8 l.classes.length]

/-- The Line Description's part of START_SERVICE (R11). -/
def startServiceOwner (s : State) : State × Reply :=
  if s.inService then (s, refuse .state)
  else if !s.clock.ticked then (s, refuseReason .state 14)
  else
    match topology s.lds with
    | some (k, n, r) => (s, .refuse .topology { Detail.empty with object := some (k, n), reason := some r })
    | none =>
      let s1 := takeUp s
      (s1, .accept (u8 s1.lds.lineState.code :: objectCounts s1.lds))

/-- START_SERVICE. -/
def execStartService (h : Hdr) (s : State) : Host.Outcome State Fault Refusal :=
  .next (request .startService h .lineWide startServiceOwner s)

/-! ## STOP_SERVICE (R13) -/

/-- The blocks put the line down (R13). -/
def putDown (s : State) : State :=
  let s1 := cutAll (modLds (fun l => { l with lineState := .setup }) s)
  { s1 with
    gate := Gate.init
    reg := { s1.reg with headways := [], lastRegs := [], merges := [] }
    anc := { s1.anc with channels := [], announced := [] }
    trc := { s1.trc with sections := tmap s1.trc.sections (fun _ r => { r with interval := none }) } }

/-- The Line Description's part of STOP_SERVICE (R13). -/
def stopServiceOwner (s : State) : State × Reply :=
  if !s.inService then (s, refuse .state)
  else if !s.trt.trains.isEmpty then (s, refuseCount .state s.trt.trains.length)
  else (putDown s, .accept [u8 LineState.setup.code])

/-- STOP_SERVICE. -/
def execStopService (h : Hdr) (s : State) : Host.Outcome State Fault Refusal :=
  .next (request .stopService h .lineWide stopServiceOwner s)

/-! ## RESTART (R17) -/

/-- What RESTART clears in each block before anything is recomputed (R50, R70, R90, R110, R133, R173, R192; log 26). -/
def restartClear (s : State) : State :=
  let s1 := { s with
    link := { s.link with outbound := [] }
    trt := { s.trt with trains := [], occupancy := tmap s.trt.occupancy (fun _ _ => 0) }
    gate := { arbiters := tmap s.gate.arbiters (fun _ a => freshArbiter a.capacity), platformHolds := [] }
    reg := { s.reg with
      headways := tmap s.reg.headways (fun _ _ => freshHeadway), lastRegs := []
      merges := tmap s.reg.merges (fun _ m => { m with committed := none }) }
    trc := { s.trc with sections := tmap s.trc.sections (fun _ r => { r with pending := none }) } }
  let s2 := mapTrips (fun t => { t.resetDay with train := none }) s1
  let s3 := cutAll s2
  { s3 with anc := { s3.anc with channels := tmap s3.anc.channels (fun _ _ => StationChannel.init), announced := [] } }

/-- What RESTART clears in the Incident Manager (R157). -/
def restartIncidents (s : State) : State :=
  { s with inm := { s.inm with
      incidents := s.inm.incidents.filter (fun e => e.2.source.kind = .trip)
      channels := s.inm.channels.map (fun c => { c with count := 0, openIncident := none })
      tableFull := false } }

/-- The proving-start test of each section (R133), in rising section number: a DESIGN CHOICE (log 26). -/
def testEach (s : State) : State := (tkeys s.trc.sections).foldl (fun s x => provingTest x s) s

/-- The attention categories RESTART recomputes, the incidents' apart (R181). -/
def restartAttention (s : State) : State :=
  setCategory .storeWear (s.store.wear ≤ s.store.corrected) (setCategory .clockUnset (s.clock.state = .unset) s)

/-- The acts of RESTART (R17). -/
def restartAll (s : State) : State :=
  restartAttention (testEach (refreshIncidents (recomputeEffects (List.range 24) (restartIncidents (restartClear s)))))

/-- The part's answer to RESTART: the line state, and the train records and incident entries removed (R17). -/
def restartOwner (s : State) : State × Reply :=
  let s1 := restartAll s
  (s1, .accept [u8 s.lds.lineState.code, u8 s.trt.trains.length,
    u8 (s.inm.incidents.filter (fun e => e.2.source.kind ≠ .trip)).length])

/-- RESTART. -/
def execRestart (h : Hdr) (s : State) : Host.Outcome State Fault Refusal :=
  .next (request .restart h .lineWide restartOwner s)

/-! ## SET_PARAM on values of the line as a whole (R14, R26, R46, R55, R72, R169, R179) -/

/-- A header whose payload must also satisfy a condition of form (R184, R190). -/
def withForm (h : Hdr) (ok : Bool) : Hdr := { h with formed := h.formed && ok }

/-- A value within a range. -/
def inRange (lo hi v : Int) : Bool := lo ≤ v && v ≤ hi

/-- The checks and acts common to a parameter's new value (R14): RANGE names the value, the last field of the request. -/
def setValue (field : Nat) (ok : Bool) (v : Int) (f : State → State) (s : State) : State × Reply :=
  if ok then (f s, .accept [i32 v]) else (s, refuseField field)

/-- The regulation parameters changed. -/
def modParams (f : RegParams → RegParams) (s : State) : State := { s with reg := { s.reg with params := f s.reg.params } }

/-- SERVICE_ORIGIN: refused in SERVICE; the service-day day of week is recomputed without a rollover (R26). -/
def originOwner (field : Nat) (v : Int) (s : State) : State × Reply :=
  if s.inService then (s, refuse .state)
  else setValue field (inRange 0 23 v) v (modClock (fun c => { c with serviceOrigin := v.toNat }.resetServiceDay)) s

/-- WEAR_THRESHOLD: one at or below the present count reports STORE_WEAR (R46). -/
def wearOwner (field : Nat) (v : Int) (s : State) : State × Reply :=
  setValue field (inRange 1 255 v) v
    (fun s =>
      let s1 := { s with store := { s.store with wear := v.toNat } }
      if v.toNat ≤ s.store.corrected then report .storeWear s1 else s1) s

/-- ASSIGN_GRACE (R55). -/
def graceOwner (field : Nat) (v : Int) (s : State) : State × Reply :=
  setValue field (inRange 0 3000 v) v (fun s => { s with trt := { s.trt with grace := v.toNat } }) s

/-- REG_WEIGHT (R72). -/
def weightOwner (field : Nat) (v : Int) (s : State) : State × Reply :=
  setValue field (inRange 0 16 v) v (modParams (fun p => { p with weight := v.toNat })) s

/-- REG_GAIN (R72). -/
def gainOwner (field : Nat) (v : Int) (s : State) : State × Reply :=
  setValue field (inRange 1 16 v) v (modParams (fun p => { p with gain := v.toNat })) s

/-- EARLY_BAND (R72). -/
def earlyOwner (field : Nat) (v : Int) (s : State) : State × Reply :=
  setValue field (inRange 0 600 v) v (modParams (fun p => { p with early := v.toNat })) s

/-- LATE_BAND (R72). -/
def lateOwner (field : Nat) (v : Int) (s : State) : State × Reply :=
  setValue field (inRange 0 600 v) v (modParams (fun p => { p with late := v.toNat })) s

/-- PROFILE_STEP (R72). -/
def stepOwner (field : Nat) (v : Int) (s : State) : State × Reply :=
  setValue field (inRange 10 3000 v) v (modParams (fun p => { p with step := v.toNat })) s

/-- APPROACH_TEMPLATE (R169). -/
def approachOwner (field : Nat) (v : Int) (s : State) : State × Reply :=
  setValue field (inRange 0 255 v) v (fun s => { s with anc := { s.anc with approach := v.toNat } }) s

/-- AUTO_CLEAR (R179). -/
def autoClearOwner (field : Nat) (v : Int) (s : State) : State × Reply :=
  setValue field (inRange 0 1 v) v (fun s => { s with atu := { s.atu with autoClear := v = 1 } }) s

/-- SET_PARAM SERVICE_ORIGIN. -/
def execServiceOrigin (h : Hdr) (v : Int) (s : State) : Host.Outcome State Fault Refusal :=
  .next (request .setParam h .lineWide (originOwner 2 v) s)

/-- SET_PARAM WEAR_THRESHOLD. -/
def execWearThreshold (h : Hdr) (v : Int) (s : State) : Host.Outcome State Fault Refusal :=
  .next (request .setParam h .lineWide (wearOwner 2 v) s)

/-- SET_PARAM ASSIGN_GRACE. -/
def execAssignGrace (h : Hdr) (v : Int) (s : State) : Host.Outcome State Fault Refusal :=
  .next (request .setParam h .lineWide (graceOwner 2 v) s)

/-- SET_PARAM REG_WEIGHT. -/
def execRegWeight (h : Hdr) (v : Int) (s : State) : Host.Outcome State Fault Refusal :=
  .next (request .setParam h .lineWide (weightOwner 2 v) s)

/-- SET_PARAM REG_GAIN. -/
def execRegGain (h : Hdr) (v : Int) (s : State) : Host.Outcome State Fault Refusal :=
  .next (request .setParam h .lineWide (gainOwner 2 v) s)

/-- SET_PARAM EARLY_BAND. -/
def execEarlyBand (h : Hdr) (v : Int) (s : State) : Host.Outcome State Fault Refusal :=
  .next (request .setParam h .lineWide (earlyOwner 2 v) s)

/-- SET_PARAM LATE_BAND. -/
def execLateBand (h : Hdr) (v : Int) (s : State) : Host.Outcome State Fault Refusal :=
  .next (request .setParam h .lineWide (lateOwner 2 v) s)

/-- SET_PARAM PROFILE_STEP. -/
def execProfileStep (h : Hdr) (v : Int) (s : State) : Host.Outcome State Fault Refusal :=
  .next (request .setParam h .lineWide (stepOwner 2 v) s)

/-- SET_PARAM APPROACH_TEMPLATE. -/
def execApproachTemplate (h : Hdr) (v : Int) (s : State) : Host.Outcome State Fault Refusal :=
  .next (request .setParam h .lineWide (approachOwner 2 v) s)

/-- SET_PARAM AUTO_CLEAR. -/
def execAutoClear (h : Hdr) (v : Int) (s : State) : Host.Outcome State Fault Refusal :=
  .next (request .setParam h .lineWide (autoClearOwner 2 v) s)

/-! ## SET_PARAM on values of objects (R14, R190) -/

/-- The acts common to a parameter of an object: RANGE by the value's own range, UNKNOWN, then RANGE by a joint constraint
(R14, log 13), which names the value, field 2 (log 11). `new` is the object with the value, `ok` its constraints. -/
def setObject {α : Type} (o : Option α) (own : Bool) (v : Int) (new : α → α) (ok : α → Bool) (put : α → State → State) (s : State) :
    State × Reply :=
  if !own then (s, refuseField 2)
  else
    match o with
    | none => (s, refuse .unknown)
    | some a => setValue 2 (ok (new a)) v (put (new a)) s

/-- Code 0, the approach lead of a station. -/
def leadParam (n : Nat) (v : Int) (s : State) : State × Reply :=
  setObject (tget s.lds.stations n) (inRange 0 1800 v) v (fun f => { f with lead := v.toNat }) (fun _ => true)
    (fun f => modLds (fun l => { l with stations := tput l.stations n f })) s

/-- A stop point with one of its four timing values replaced. -/
def stopWith (code : Nat) (v : Nat) (p : Stop) : Stop :=
  match code with
  | 1 => { p with minDwell := v }
  | 2 => { p with maxDwell := v }
  | 3 => { p with headway := v }
  | _ => { p with profile := v }

/-- The own range of codes 1 to 4. -/
def stopRange (code : Nat) (v : Int) : Bool :=
  match code with
  | 1 => inRange 0 6000 v
  | 2 => inRange 0 6000 v
  | 3 => inRange 300 6000 v
  | _ => inRange 0 3 v

/-- Codes 1 to 4, the values of a stop point. -/
def stopParam (code n : Nat) (v : Int) (s : State) : State × Reply :=
  setObject (tget s.lds.stops n) (stopRange code v) v (stopWith code v.toNat) (fun p => p.minDwell ≤ p.maxDwell)
    (fun p => modLds (fun l => { l with stops := tput l.stops n p })) s

/-- A link with one of its run times replaced. -/
def linkWith (code : Nat) (v : Nat) (k : LinkFields) : LinkFields :=
  match code with
  | 5 => { k with run0 := v }
  | 6 => { k with run1 := v }
  | 7 => { k with run2 := v }
  | _ => { k with run3 := v }

/-- The run times do not decrease (R4). -/
def risingRuns (k : LinkFields) : Bool := k.run0 ≤ k.run1 && k.run1 ≤ k.run2 && k.run2 ≤ k.run3

/-- Codes 5 to 8, the run times of a link. -/
def linkParam (code n : Nat) (v : Int) (s : State) : State × Reply :=
  setObject (tget s.lds.links n) (inRange 50 12000 v) v (linkWith code v.toNat) risingRuns
    (fun k => modLds (fun l => { l with links := tput l.links n k })) s

/-- A section with one of its eight timing values replaced. -/
def sectionWith (code : Nat) (v : Nat) (f : SectionFields) : SectionFields :=
  match code with
  | 9 => { f with deadTime := v }
  | 10 => { f with cycleTime := v }
  | 11 => { f with settleTime := v }
  | 12 => { f with energiseTimeout := v }
  | 13 => { f with isolateTimeout := v }
  | 14 => { f with provingInterval := v }
  | 15 => { f with provingDuration := v }
  | _ => { f with provingTimeout := v }

/-- The own range of codes 9 to 16. -/
def sectionRange (code : Nat) (v : Int) : Bool :=
  match code with
  | 9 => inRange 100 6000 v
  | 10 => inRange 300 36000 v
  | 11 => inRange 0 600 v
  | 12 => inRange 10 600 v
  | 13 => inRange 10 600 v
  | 14 => v = 0 || inRange 600 72000 v
  | 15 => inRange 50 1200 v
  | _ => inRange 50 3000 v

/-- The settle reference of a section (R111). -/
def settleReference (r : SectRec) : Option Count :=
  match r.lastEnergiseDone, r.lastProvingTimeout with
  | some a, some b => some (laterOf a b)
  | some a, none => some a
  | none, b => b

/-- The settle watch set again from its reference and the settle time in force (R125). -/
def resetSettle (f : SectionFields) (r : SectRec) : SectRec :=
  match settleReference r with
  | some c => setSettle c f r
  | none => r

/-- An interval begins at a change from 0 for a section that is LIVE or PROVING with none running; `old` is the value changed (R14,
R124). -/
def beginInterval (old : Nat) (s : State) (f : SectionFields) (r : SectRec) : SectRec :=
  if old = 0 && (r.state = .live || r.state = .proving) && r.interval.isNone then { r with interval := newInterval s f } else r

/-- What the change of a section's value does in its record (R14); a settle time sets the watch of the section it
belongs to, where R125 says 'for every section' (log 38). A watch so put at or before the running count is left to SETTLE_WATCH_EXPIRY:
the step itself makes no proving-start test (DESIGN CHOICE, log 46). -/
def sectionTakes (code n : Nat) (f : SectionFields) (s : State) : State :=
  let s1 := modLds (fun l => { l with sections := tput l.sections n f }) s
  match code with
  | 11 => modRec n (resetSettle f) s1
  | 14 => modRec n (beginInterval (((tget s.lds.sections n).map SectionFields.provingInterval).getD 0) s1 f) s1
  | _ => s1

/-- Codes 9 to 16, the timing values of a section. -/
def sectionParam (code n : Nat) (v : Int) (s : State) : State × Reply :=
  setObject (tget s.lds.sections n) (sectionRange code v) v (sectionWith code v.toNat)
    (fun f => f.provingDuration ≤ f.provingTimeout) (sectionTakes code n) s

/-- A zone with one of its values replaced. -/
def zoneWith (code : Nat) (v : Nat) (z : Zone) : Zone :=
  match code with
  | 17 => { z with normalCap := v }
  | 18 => { z with tieCap := v }
  | 19 => { z with vtrip := v }
  | 20 => { z with ht := v }
  | 21 => { z with hc := v }
  | 22 => { z with vdead := v }
  | 23 => { z with compareOnly := v = 1 }
  | 24 => { z with startWindow := v }
  | 25 => { z with releaseTimeout := v }
  | _ => { z with starvation := v }

/-- The own range of codes 17 to 26. -/
def zoneRange (code : Nat) (v : Int) : Bool :=
  match code with
  | 17 => inRange 0 255 v
  | 18 => inRange 0 255 v
  | 23 => inRange 0 1 v
  | 24 => inRange 50 900 v
  | 25 => inRange 50 1200 v
  | 26 => inRange 1 15 v
  | _ => inRange 0 2000 v

/-- What the change of a zone's value does (R14): a capacity is re-derived, and a starvation limit lowers the skipped counts above
it. -/
def zoneTakes (code n : Nat) (z : Zone) (s : State) : State :=
  let s1 := modLds (fun l => { l with zones := tput l.zones n z }) s
  match code with
  | 17 => rederiveCapacity n s1
  | 18 => rederiveCapacity n s1
  | 26 => modArbiter n (fun a => { a with starts := a.starts.map (fun r => { r with skipped := min z.starvation r.skipped }) }) s1
  | _ => s1

/-- Codes 17 to 26, the values of a zone. -/
def zoneParam (code n : Nat) (v : Int) (s : State) : State × Reply :=
  setObject (tget s.lds.zones n) (zoneRange code v) v (zoneWith code v.toNat) (fun _ => true) (zoneTakes code n) s

/-- Code 27, the separation of a merge, held by the merge record too (R71). -/
def mergeParam (n : Nat) (v : Int) (s : State) : State × Reply :=
  setObject (tget s.lds.merges n) (inRange 0 1200 v) v (fun m => { m with separation := v.toNat }) (fun _ => true)
    (fun m s =>
      let s1 := modLds (fun l => { l with merges := tput l.merges n m }) s
      { s1 with reg := { s1.reg with merges := tmod s1.reg.merges n (fun r => { r with separation := m.separation }) } }) s

/-- Code 28, the start demand of a class. -/
def classParam (n : Nat) (v : Int) (s : State) : State × Reply :=
  setObject (tget s.lds.classes n) (inRange 1 63 v) v (fun _ => v.toNat) (fun _ => true)
    (fun d => modLds (fun l => { l with classes := tput l.classes n d })) s

/-- The parameters of objects by code (R190). -/
def objectParam (code n : Nat) (v : Int) (s : State) : State × Reply :=
  if code = 0 then leadParam n v s
  else if code ≤ 4 then stopParam code n v s
  else if code ≤ 8 then linkParam code n v s
  else if code ≤ 16 then sectionParam code n v s
  else if code ≤ 26 then zoneParam code n v s
  else if code = 27 then mergeParam n v s
  else classParam n v s

/-- The parameters of the line as a whole by code (R190); a code not in the table is refused with RANGE. -/
def lineParam (code : Nat) (v : Int) (s : State) : State × Reply :=
  match code with
  | 29 => originOwner 2 v s
  | 30 => wearOwner 2 v s
  | 31 => graceOwner 2 v s
  | 32 => weightOwner 2 v s
  | 33 => gainOwner 2 v s
  | 34 => earlyOwner 2 v s
  | 35 => lateOwner 2 v s
  | 36 => stepOwner 2 v s
  | 37 => approachOwner 2 v s
  | 38 => autoClearOwner 2 v s
  | _ => (s, refuseField 0)

/-- The presence byte agrees with the code (R190). -/
def paramForm (code : Nat) (obj : Option Nat) : Bool := if code ≤ 28 then obj.isSome else if code ≤ 38 then obj.isNone else true

/-- The owner's part of SET_PARAM (R14, R190). -/
def setParamOwner (code : Nat) (obj : Option Nat) (v : Int) (s : State) : State × Reply :=
  if code ≤ 28 then
    match obj with
    | some n => objectParam code n v s
    | none => (s, refuse .format)
  else lineParam code v s

/-- SET_PARAM. -/
def execSetParam (h : Hdr) (code : Nat) (obj : Option Nat) (v : Int) (s : State) : Host.Outcome State Fault Refusal :=
  .next (request .setParam (withForm h (paramForm code obj)) .lineWide (setParamOwner code obj v) s)

/-! ## READ_LINE (R15) -/

/-- The fields of a stop point. -/
def stopItems (p : Stop) : List Item :=
  [u8 p.station, u8 (Direction.code p.direction), u8 p.sect, u16 p.minDwell, u16 p.maxDwell, u16 p.headway, u8 p.profile]
    ++ optional (fun l => [u8 l]) p.nextLink

/-- The fields of a link. -/
def linkItems (k : LinkFields) : List Item :=
  [u8 k.fromStop, u8 k.toStop, u8 k.sect, u16 k.run0, u16 k.run1, u16 k.run2, u16 k.run3]

/-- The fields of a section. -/
def sectFieldItems (f : SectionFields) : List Item :=
  [u8 f.zone, u8 f.area, u16 f.deadTime, u16 f.cycleTime, u16 f.settleTime, u16 f.energiseTimeout, u16 f.isolateTimeout,
    u32 f.provingInterval, u16 f.provingDuration, u16 f.provingTimeout]

/-- The fields of a zone. -/
def zoneFieldItems (z : Zone) : List Item :=
  [u8 z.area, u8 z.normalCap, u8 z.tieCap, u16 z.vtrip, u16 z.ht, u16 z.hc, u16 z.vdead, flag z.compareOnly, u16 z.startWindow,
    u16 z.releaseTimeout, u8 z.starvation]

/-- What READ_LINE returns of an object, `none` where it is not defined (R15). -/
def objectItems (s : State) (kind n : Nat) : Option (List Item) :=
  match kind with
  | 0 => (tget s.lds.stations n).map (fun f => [u8 f.area, u16 f.lead])
  | 1 => (tget s.lds.stops n).map stopItems
  | 2 => (tget s.lds.links n).map linkItems
  | 3 => (tget s.lds.sections n).map (fun f =>
      sectFieldItems f ++ ((getRec s n).map (fun r => [u8 r.state.code, u8 (Position.code r.feedback)])).getD [])
  | 4 => (tget s.lds.zones n).map (fun z =>
      zoneFieldItems z ++ ((tget s.trc.zones n).map (fun r => [u8 r.feed.code, u8 r.capacity])).getD [])
  | 5 => (tget s.lds.merges n).map (fun m => [u8 m.stop, u8 m.linkA, u8 m.linkB, u16 m.separation])
  | 6 => (tget s.lds.classes n).map (fun d => [u8 d])
  | _ => none

/-- What READ_LINE returns for the kind LINE: for each kind the count and the numbers of the objects defined (R15). -/
def lineItems (s : State) : List Item :=
  let numbers (l : List Nat) : List Item := listed (fun n => [u8 n]) l
  [u8 s.lds.lineState.code, u8 s.clock.serviceOrigin] ++ numbers (tkeys s.lds.stations) ++ numbers (tkeys s.lds.stops)
    ++ numbers (tkeys s.lds.links) ++ numbers (tkeys s.lds.sections) ++ numbers (tkeys s.lds.zones)
    ++ numbers (tkeys s.lds.merges) ++ numbers (tkeys s.lds.classes)

/-- The area of an object by its kind (R8, R190); a class has none. -/
def objectArea (s : State) (kind n : Nat) : Option Nat :=
  match kind with
  | 0 => stationArea s n
  | 1 => stopArea s n
  | 2 => linkArea s n
  | 3 => sectArea s n
  | 4 => zoneArea s n
  | 5 => mergeArea s n
  | _ => none

/-- The object number is present except for LINE (R190). -/
def readLineForm (kind : Nat) (obj : Option Nat) : Bool := if kind < 7 then obj.isSome else if kind = 7 then obj.isNone else true

/-- The Line Description's part of READ_LINE (R15). -/
def readLineOwner (kind : Nat) (obj : Option Nat) (s : State) : State × Reply :=
  if kind = 7 then (s, .accept (lineItems s))
  else if 7 < kind then (s, refuseField 0)
  else
    match obj.bind (objectItems s kind) with
    | none => (s, refuse .unknown)
    | some l => (s, .accept l)

/-- READ_LINE. -/
def execReadLine (h : Hdr) (kind : Nat) (obj : Option Nat) (s : State) : Host.Outcome State Fault Refusal :=
  .next (request .readLine (withForm h (readLineForm kind obj))
    (if kind = 7 then .anyArea .monitor else .inArea .monitor (obj.bind (objectArea s kind))) (readLineOwner kind obj) s)

end Sys2Proof.Machine
end

