-- ==== Sys2Proof/Machine/DeskCmds.lean ====
section
/-! DEFINITION. The requests of the Desk Rights Table, the Attention Unit and the Control Link Interface: rights, attention, status and
RESYNC (R174 to R179, R188). -/

namespace Sys2Proof.Machine

/-! ## Rights (R174, R175, R177) -/

/-- A rights table with one level written. -/
def writeLevel (desk : Nat) (t : RightsTable) (p : Nat × Level) : RightsTable := vmod t desk (fun v => vmod v p.1 (fun _ => p.2))

/-- A rights table with the pairs of a SET_RIGHTS written in order. -/
def writeLevels (desk : Nat) (l : List (Nat × Enum Level)) (t : RightsTable) : RightsTable :=
  (l.map (fun p => (p.1, Enum.get Level.none p.2))).foldl (writeLevel desk) t

/-- The levels of a desk. -/
def deskLevels (t : RightsTable) (desk : Nat) : List Level := ((t[desk]?).map Vector.toList).getD []

/-- The Desk Rights Table's part of SET_RIGHTS (R174). -/
def setRightsOwner (desk : Nat) (l : List (Nat × Enum Level)) (s : State) : State × Reply :=
  match badRights desk l with
  | some f => (s, refuseField f)
  | none =>
    let t := writeLevels desk l s.drt.pending
    ({ s with drt := { s.drt with pending := t } }, .accept ((deskLevels t desk).map (fun v => u8 (Level.code v))))

/-- SET_RIGHTS. -/
def execSetRights (h : Hdr) (desk : Nat) (l : List (Nat × Enum Level)) (s : State) : Host.Outcome State Fault Refusal :=
  .next (request .setRights h .lineWide (setRightsOwner desk l) s)

/-- All levels of a table, desk by desk. -/
def allLevels (t : RightsTable) : List Level := t.toList.flatMap Vector.toList

/-- How many desk and area pairs differ. -/
def changedLevels (a b : RightsTable) : Nat := (((allLevels a).zip (allLevels b)).filter (fun p => p.1 ≠ p.2)).length

/-- The Desk Rights Table's part of RELOAD_RIGHTS (R175). -/
def reloadRightsOwner (s : State) : State × Reply :=
  ({ s with drt := { s.drt with inForce := s.drt.pending } }, .accept [u8 (changedLevels s.drt.inForce s.drt.pending)])

/-- RELOAD_RIGHTS. -/
def execReloadRights (h : Hdr) (s : State) : Host.Outcome State Fault Refusal :=
  .next (request .reloadRights h .lineWide reloadRightsOwner s)

/-- The last-refusal record (R177). The kind as the kind byte of R189, and the level numbered by R174, are a DESIGN CHOICE (log 10). -/
def refusalItems (r : RefusalRecord) : List Item :=
  [u8 r.desk, u8 (ReqKind.code r.kind)] ++ orAny u8 (match r.area with | some a => .num a | none => .any)
    ++ [u8 (Level.code r.level), count32 r.count] ++ optional (fun t => [u32 t.1, u8 t.2]) r.time

/-- What READ_RIGHTS returns (R177): each table by desk and then by area, one byte a level (DESIGN CHOICE, log 10). -/
def rightsItems (d : Drt) : List Item :=
  (allLevels d.inForce).map (fun v => u8 (Level.code v)) ++ (allLevels d.pending).map (fun v => u8 (Level.code v))
    ++ optional refusalItems d.lastRefusal

/-- READ_RIGHTS. -/
def execReadRights (h : Hdr) (s : State) : Host.Outcome State Fault Refusal :=
  .next (request .readRights h (.anyArea .monitor) (fun s => (s, .accept (rightsItems s.drt))) s)

/-! ## Attention (R179) -/

/-- The categories CLEAR_ATTENTION and READ_STATUS may take out. -/
def clearable : List Category := [.storeWear, .rightsRefusal, .linkError]

/-- A clearing act on one category; taking out STORE_WEAR sets the corrected count to 0 (R46, R179). -/
def clearOne (s : State) (c : Category) : State :=
  if s.atu.pending.contains c then
    setCategory c false (if c = .storeWear then { s with store := { s.store with corrected := 0 } } else s)
  else s

/-- The clearable categories among some numbers, in priority order. -/
def namedClearable (l : List Nat) : List Category := clearable.filter (fun c => l.contains c.number)

/-- A set of categories as a mask of two bytes. -/
def categoriesItem (l : List Category) : Item := maskItem 2 (l.map Category.number)

/-- The Attention Unit's part of CLEAR_ATTENTION (R179). RANGE for the empty set is a DESIGN CHOICE (log 9). -/
def clearAttentionOwner (l : List Nat) (s : State) : State × Reply :=
  if l.isEmpty || !l.all (fun n => clearable.any (fun c => c.number = n)) then (s, refuseField 0)
  else
    let cleared := (namedClearable l).filter (fun c => s.atu.pending.contains c)
    let s1 := cleared.foldl clearOne s
    (s1, .accept [categoriesItem cleared, categoriesItem s1.atu.pending])

/-- CLEAR_ATTENTION. -/
def execClearAttention (h : Hdr) (l : List Nat) (s : State) : Host.Outcome State Fault Refusal :=
  .next (request .clearAttention h (.anyArea .operate) (clearAttentionOwner l) s)

/-- The status record READ_STATUS copies (R179). A DESIGN CHOICE (log 10): the highest pending category is one byte, 255 for NONE as R191
has it in an ATTENTION frame, and the levels of ATTN and LINE STOP are 1 for asserted. -/
def statusItems (s : State) : List Item :=
  [categoriesItem s.atu.pending, u8 ((s.atu.pending.head?.map Category.number).getD 255), flag s.atu.autoClear, flag s.attn,
    flag s.lineStopLevel, u8 s.lds.lineState.code, u8 s.clock.state.code, u16 s.link.errors, u8 s.store.corrected, u8 s.store.wear,
    flag s.inm.tableFull] ++ optional refusalItems s.drt.lastRefusal

/-- READ_STATUS copies the record, then clears with auto-clear ON (R179). The set of cleared categories stands in the reply with auto-clear
OFF too, empty then: a DESIGN CHOICE (log 10). -/
def readStatusOwner (s : State) : State × Reply :=
  let cleared := if s.atu.autoClear then clearable.filter (fun c => s.atu.pending.contains c) else []
  (cleared.foldl clearOne s, .accept (statusItems s ++ [categoriesItem cleared]))

/-- READ_STATUS. -/
def execReadStatus (h : Hdr) (s : State) : Host.Outcome State Fault Refusal :=
  .next (request .readStatus h (.anyArea .monitor) readStatusOwner s)

/-! ## RESYNC (R188) -/

/-- A train as RESYNC returns it. -/
def resyncTrain (n : Nat) (t : Train) : List Item :=
  [u16 n, u8 t.state.code] ++ locItems t.loc
    ++ [u16 t.dwell, count32 t.dwellExpiry, u8 t.profile, flag (t.state = .released)]

/-- A section as RESYNC returns it. -/
def resyncSection (x : Nat) (r : SectRec) : List Item :=
  [u8 x, u8 r.state.code] ++ optional (fun o => [u8 (BreakerOrder.code o)]) r.order
    ++ optional (fun d => [u16 d]) (if r.state = .proving then r.provingOrdered else none)

/-- A station as RESYNC returns it (R188): the channel state says whether the fields of a play follow, with no presence byte before them
(DESIGN CHOICE, log 10). -/
def resyncStation (st : Nat) (c : StationChannel) : List Item :=
  match c.playing with
  | none => [u8 st, u8 0]
  | some p =>
    [u8 st, u8 1, u8 p.entry.template, u8 (Priority.code p.entry.priority)] ++ listed (fun v => [u16 v]) p.entry.params
      ++ [count32 p.ending, flag p.finishing]

/-- The trains, sections and stations a desk may see (R188). -/
def seenTrains (desk : Nat) (s : State) : Table Train := s.trt.trains.filter (fun q => holdsAt s desk .monitor (locArea s q.2.loc))
def seenSections (desk : Nat) (s : State) : Table SectRec := s.trc.sections.filter (fun q => holdsAt s desk .monitor (sectArea s q.1))
def seenStations (desk : Nat) (s : State) : Table StationChannel :=
  s.anc.channels.filter (fun q => holdsAt s desk .monitor (stationArea s q.1))

/-- The reply contains every train record, every defined section and every station channel (R188). -/
def resyncComplete (desk : Nat) (s : State) : Bool :=
  (seenTrains desk s).length = s.trt.trains.length && (seenSections desk s).length = s.trc.sections.length
    && (seenStations desk s).length = s.anc.channels.length

/-- What RESYNC returns: trains, sections and stations, then the running count at the copy and the complete indication (R188). -/
def resyncItems (desk : Nat) (s : State) : List Item :=
  listed (fun q => resyncTrain q.1 q.2) (seenTrains desk s)
    ++ listed (fun q => resyncSection q.1 q.2) (seenSections desk s)
    ++ listed (fun q => resyncStation q.1 q.2) (seenStations desk s) ++ [count32 s.now, flag (resyncComplete desk s)]

/-- A complete RESYNC empties the outbound queue and takes out LINK_OVERRUN (R188). -/
def resyncOwner (desk : Nat) (s : State) : State × Reply :=
  (if resyncComplete desk s then setCategory .linkOverrun false { s with link := { s.link with outbound := [] } } else s,
    .accept (resyncItems desk s))

/-- RESYNC. -/
def execResync (h : Hdr) (s : State) : Host.Outcome State Fault Refusal :=
  .next (request .resync h (.anyArea .monitor) (resyncOwner h.desk) s)

end Sys2Proof.Machine
end

