-- ==== Sys2Proof/Machine/LinkCmds.lean ====
section
/-! DEFINITION. The events of the control link: becoming ready, receiving, discarding, refusing a kind, and transmitting
(R182 to R187, R192). -/

namespace Sys2Proof.Machine

/-- The link changed. -/
def modLink (f : Link → Link) (s : State) : State := { s with link := f s.link }

/-- A frame goes on TXD. -/
def startSending (f : TxFrame) (l : Link) : Link := { l with sending := some f, sentCycles := 0 }

/-- The link becomes ready: the receiver hunts, and the start-up frame in the attention slot is sent first (R192). -/
def becomeReady (l : Link) : Link :=
  let l1 := { l with ready := true, waitCycles := 0, receiver := .hunting, gapCycles := 0, frame := [] }
  match l.slot with
  | some f => startSending (.attention f) { l1 with slot := none }
  | none => l1

/-- LINK_READY: the start-up wait is over (R192, log 19). -/
def execLinkReady (s : State) : Host.Outcome State Fault Refusal :=
  .next (if s.live && !s.link.ready then modLink becomeReady s else s)

/-- FRAME_START: a hunting receiver reads the sync byte, and no byte of the frame is received yet (R183). -/
def execFrameStart (s : State) : Host.Outcome State Fault Refusal :=
  .next (if s.linkUp && s.link.receiver = .hunting then
      modLink (fun l => { l with receiver := .inFrame, gapCycles := 0, frame := [] }) s
    else s)

/-- The bytes received of a frame stand before a gap that has exceeded 5 ms (R183). -/
def markGap (s : State) : State := if s.link.frame = [] then s else { s with rxd := .gap :: s.rxd }

/-- BYTE_GAP_TIMEOUT: the gap in the frame being received exceeds 5 ms, and it is discarded; a frame that begins within its bytes has the
same gap (R183). -/
def execByteGapTimeout (s : State) : Host.Outcome State Fault Refusal :=
  .next (if s.linkUp && s.link.receiver = .inFrame then discardFrame (markGap s) else s)

/-- A discard for a cause can occur: a well-formed frame finds no buffer only while 4 requests are outstanding (R183, R184). -/
def discardPossible (s : State) : LinkErrorCause → Bool
  | .noBuffer => Config.maxOutstanding ≤ s.link.outstanding.length
  | _ => true

/-- LINK_ERROR_DISCARD: a received frame is discarded (R183, log 8). -/
def execLinkErrorDiscard (c : LinkErrorCause) (s : State) : Host.Outcome State Fault Refusal :=
  .next (if s.linkUp && discardPossible s c then discardFrame s else s)

/-- KIND_REFUSAL: a well-formed frame whose kind is no request kind is answered REFUSE KIND (R184, R189). -/
def execKindRefusal (tag desk kind : Nat) (s : State) : Host.Outcome State Fault Refusal :=
  .next (if !s.linkUp || isRequestKind kind then s
    else if turnedAway s { tag := tag, desk := desk, formed := true } then discardFrame s
    else putReply tag (refuse .kind) (frameTaken s))

/-- The next frame to send: the reply to the oldest outstanding request, the attention slot, the outbound queue (R186). -/
def chooseFrame (l : Link) : Link :=
  match l.outstanding, l.slot, l.outbound with
  | o :: _, _, _ => startSending (.reply o.tag o.reply o.part) l
  | [], some f, _ => startSending (.attention f) { l with slot := none }
  | [], none, o :: rest => startSending (.order o) { l with outbound := rest }
  | [], none, [] => l

/-- TRANSMIT_NEXT_FRAME: with no frame being sent, the transmitter chooses the next (R186). -/
def execTransmitNextFrame (s : State) : Host.Outcome State Fault Refusal :=
  .next (if s.linkUp && s.link.sending.isNone then modLink chooseFrame s else s)

/-- A part of a reply has been sent: the next part is to follow, or the request is outstanding no longer (R184, R185). -/
def partSent : List Outstanding → List Outstanding
  | [] => []
  | o :: rest => if o.part + 1 < replyParts o.reply then { o with part := o.part + 1 } :: rest else rest

/-- The frame being sent has gone out (R184, R186). -/
def frameOut (l : Link) : Link :=
  match l.sending with
  | some (.reply _ _ _) => { l with sending := none, sentCycles := 0, outstanding := partSent l.outstanding }
  | some _ => { l with sending := none, sentCycles := 0 }
  | none => l

/-- FRAME_SENT: the frame being sent has been sent to its end (R186, log 19). -/
def execFrameSent (s : State) : Host.Outcome State Fault Refusal :=
  .next (if s.live then modLink frameOut s else s)

end Sys2Proof.Machine
end

