-- ==== Sys2Proof/Machine/PowerCmds.lean ====
section
/-! DEFINITION. Supply and the RESET input: power-on, RESET, its release, and loss of supply (00 'The three resets', R16, R31, R50, R70,
R90, R110, R133, R157, R173, R181, R192, R193). -/

namespace Sys2Proof.Machine

/-- The start-up pending set: CLOCK_UNSET exactly while the clock is UNSET (R181). -/
def startupSet (c : Clock) : List Category := if c.state = .unset then [.clockUnset] else []

/-- The part at its RESET values: every block but the Line Clock as after power-on, with the start-up frame (R181). -/
def resetValues (s : State) : State :=
  let p := startupSet s.clock
  { s with
    lds := Lds.init
    store := Store.init
    trt := Trt.init
    reg := Reg.init
    gate := Gate.init
    trc := Trc.init
    inm := Inm.init
    anc := Anc.init
    drt := Drt.init
    atu := { pending := p, autoClear := false, announced := p.head? }
    link := Link.init p.head? p
    scrubDue := false
    liftDue := false }

/-- Each input then active starts qualifying (R157). -/
def qualifyActive (s : State) : State :=
  (List.range 16).foldl (fun s n => if (s.tripPins[n]?).getD false then inputActive n s else s) s

/-- The part at its power-on values, the levels of its inputs and the commands waiting kept. -/
def powerOnValues (s : State) : State :=
  resetValues { s with powered := true, clock := Clock.init }

/-- POWER_ON: supply is applied; an input held active starts qualifying unless RESET is asserted (R157; log 4). -/
def execPowerOn (s : State) : Host.Outcome State Fault Refusal :=
  .next (let s1 := powerOnValues s; if s.resetPin then s1 else qualifyActive s1)

/-- RESET_ASSERTED: every block but the Line Clock goes to its RESET values and is held there (R31, R157, R192). -/
def execResetAsserted (s : State) : Host.Outcome State Fault Refusal :=
  .next (let s1 := { s with resetPin := true }; if s.powered then resetValues s1 else s1)

/-- RESET_RELEASED: the start-up wait begins, and each input then active starts qualifying (R157, R192). -/
def execResetReleased (s : State) : Host.Outcome State Fault Refusal :=
  .next (let s1 := { s with resetPin := false }; if s.powered && s.resetPin then qualifyActive (resetValues s1) else s1)

/-- SUPPLY_LOSS: nothing is kept; LINE STOP reads asserted without supply (R193; log 4). -/
def execSupplyLoss (s : State) : Host.Outcome State Fault Refusal :=
  .next { powerOnValues s with powered := false }

end Sys2Proof.Machine
end

