-- ==== Sys2Proof/Machine/Dispatch.lean ====
section
/-! DEFINITION. The one dispatch from a command to its meaning. -/

namespace Sys2Proof.Machine

/-- The effect of a command on everything but the queue of commands waiting. -/
def exec (i : Instr) (s : State) : Host.Outcome State Fault Refusal :=
  match i with
  | .powerOn => Sys2Proof.Machine.execPowerOn s
  | .resetAsserted => Sys2Proof.Machine.execResetAsserted s
  | .resetReleased => Sys2Proof.Machine.execResetReleased s
  | .linkReady => Sys2Proof.Machine.execLinkReady s
  | .tick flips => Sys2Proof.Machine.execTick flips s
  | .scrub => Sys2Proof.Machine.execScrub s
  | .perCycleLift => Sys2Proof.Machine.execPerCycleLift s
  | .tripInputActive n => Sys2Proof.Machine.execTripInputActive n s
  | .tripInputInactive n => Sys2Proof.Machine.execTripInputInactive n s
  | .tripQualification n => Sys2Proof.Machine.execTripQualification n s
  | .byteGapTimeout => Sys2Proof.Machine.execByteGapTimeout s
  | .linkErrorDiscard cause => Sys2Proof.Machine.execLinkErrorDiscard cause s
  | .kindRefusal tag desk kind => Sys2Proof.Machine.execKindRefusal tag desk kind s
  | .transmitNextFrame => Sys2Proof.Machine.execTransmitNextFrame s
  | .defineStation h n d => Sys2Proof.Machine.execDefineStation h n d s
  | .defineStop h n d => Sys2Proof.Machine.execDefineStop h n d s
  | .defineLink h n d => Sys2Proof.Machine.execDefineLink h n d s
  | .defineSection h n d => Sys2Proof.Machine.execDefineSection h n d s
  | .defineZone h n d => Sys2Proof.Machine.execDefineZone h n d s
  | .defineMerge h n d => Sys2Proof.Machine.execDefineMerge h n d s
  | .defineClass h n d => Sys2Proof.Machine.execDefineClass h n d s
  | .startService h => Sys2Proof.Machine.execStartService h s
  | .stopService h => Sys2Proof.Machine.execStopService h s
  | .restart h => Sys2Proof.Machine.execRestart h s
  | .setParam h code obj v => Sys2Proof.Machine.execSetParam h code obj v s
  | .serviceOrigin h v => Sys2Proof.Machine.execServiceOrigin h v s
  | .wearThreshold h v => Sys2Proof.Machine.execWearThreshold h v s
  | .assignGrace h v => Sys2Proof.Machine.execAssignGrace h v s
  | .regWeight h v => Sys2Proof.Machine.execRegWeight h v s
  | .regGain h v => Sys2Proof.Machine.execRegGain h v s
  | .earlyBand h v => Sys2Proof.Machine.execEarlyBand h v s
  | .lateBand h v => Sys2Proof.Machine.execLateBand h v s
  | .profileStep h v => Sys2Proof.Machine.execProfileStep h v s
  | .approachTemplate h v => Sys2Proof.Machine.execApproachTemplate h v s
  | .autoClear h v => Sys2Proof.Machine.execAutoClear h v s
  | .readLine h kind obj => Sys2Proof.Machine.execReadLine h kind obj s
  | .setTime h timeOfDay day => Sys2Proof.Machine.execSetTime h timeOfDay day s
  | .setTrim h trim => Sys2Proof.Machine.execSetTrim h trim s
  | .adjustTime h offset => Sys2Proof.Machine.execAdjustTime h offset s
  | .readTime h => Sys2Proof.Machine.execReadTime h s
  | .loadTrip h t => Sys2Proof.Machine.execLoadTrip h t s
  | .cancelTrip h n => Sys2Proof.Machine.execCancelTrip h n s
  | .retimeTrip h n start reps => Sys2Proof.Machine.execRetimeTrip h n start reps s
  | .eraseTimetable h => Sys2Proof.Machine.execEraseTimetable h s
  | .readTripByNumber h n => Sys2Proof.Machine.execReadTripByNumber h n s
  | .readTripNext h n => Sys2Proof.Machine.execReadTripNext h n s
  | .readTripStore h => Sys2Proof.Machine.execReadTripStore h s
  | .arrival h train stop stamp => Sys2Proof.Machine.execArrival h train stop stamp s
  | .departure h train stop stamp => Sys2Proof.Machine.execDeparture h train stop stamp s
  | .breakerFeedback h sect pos => Sys2Proof.Machine.execBreakerFeedback h sect pos s
  | .feedMeasure h zone vp vt => Sys2Proof.Machine.execFeedMeasure h zone vp vt s
  | .proveResult h sect r => Sys2Proof.Machine.execProveResult h sect r s
  | .detection h kind stop r => Sys2Proof.Machine.execDetection h kind stop r s
  | .trainEnter h train cls stop trip => Sys2Proof.Machine.execTrainEnter h train cls stop trip s
  | .assignTrip h train trip => Sys2Proof.Machine.execAssignTrip h train trip s
  | .trainLeave h train => Sys2Proof.Machine.execTrainLeave h train s
  | .readTrains h train => Sys2Proof.Machine.execReadTrains h train s
  | .setDwell h train dwell => Sys2Proof.Machine.execSetDwell h train dwell s
  | .readRegulationParameters h => Sys2Proof.Machine.execReadRegulationParameters h s
  | .readRegulationStop h stop => Sys2Proof.Machine.execReadRegulationStop h stop s
  | .readRegulationMerge h merge => Sys2Proof.Machine.execReadRegulationMerge h merge s
  | .dwellExpiry train => Sys2Proof.Machine.execDwellExpiry train s
  | .mergeGapExpiry train => Sys2Proof.Machine.execMergeGapExpiry train s
  | .releaseTimeout train => Sys2Proof.Machine.execReleaseTimeout train s
  | .startWindowEnd zone train => Sys2Proof.Machine.execStartWindowEnd zone train s
  | .holdTrain h train => Sys2Proof.Machine.execHoldTrain h train s
  | .releaseTrain h train => Sys2Proof.Machine.execReleaseTrain h train s
  | .holdPlatform h stop => Sys2Proof.Machine.execHoldPlatform h stop s
  | .releasePlatform h stop => Sys2Proof.Machine.execReleasePlatform h stop s
  | .readGateZone h zone => Sys2Proof.Machine.execReadGateZone h zone s
  | .readGatePlatforms h => Sys2Proof.Machine.execReadGatePlatforms h s
  | .energise h sect => Sys2Proof.Machine.execEnergise h sect s
  | .isolate h sect => Sys2Proof.Machine.execIsolate h sect s
  | .isolateOnClear h sect => Sys2Proof.Machine.execIsolateOnClear h sect s
  | .earth h sect => Sys2Proof.Machine.execEarth h sect s
  | .unearth h sect => Sys2Proof.Machine.execUnearth h sect s
  | .proveNow h sect => Sys2Proof.Machine.execProveNow h sect s
  | .readSection h sect => Sys2Proof.Machine.execReadSection h sect s
  | .readZones h => Sys2Proof.Machine.execReadZones h s
  | .deferredEnergiseStart sect => Sys2Proof.Machine.execDeferredEnergiseStart sect s
  | .energiseTimeout sect => Sys2Proof.Machine.execEnergiseTimeout sect s
  | .isolateTimeout sect => Sys2Proof.Machine.execIsolateTimeout sect s
  | .provingTimeout sect => Sys2Proof.Machine.execProvingTimeout sect s
  | .provingIntervalExpiry sect => Sys2Proof.Machine.execProvingIntervalExpiry sect s
  | .settleWatchExpiry sect => Sys2Proof.Machine.execSettleWatchExpiry sect s
  | .setTripInput h n f => Sys2Proof.Machine.execSetTripInput h n f s
  | .setDetectionKind h kind f => Sys2Proof.Machine.execSetDetectionKind h kind f s
  | .setEscalation h channel f => Sys2Proof.Machine.execSetEscalation h channel f s
  | .raiseIncident h severity action targets loc => Sys2Proof.Machine.execRaiseIncident h severity action targets loc s
  | .ackIncident h n => Sys2Proof.Machine.execAckIncident h n s
  | .clearIncident h n => Sys2Proof.Machine.execClearIncident h n s
  | .testDetection h channel stop => Sys2Proof.Machine.execTestDetection h channel stop s
  | .readIncidentsTable h => Sys2Proof.Machine.execReadIncidentsTable h s
  | .readIncidentsOne h n => Sys2Proof.Machine.execReadIncidentsOne h n s
  | .readIncidentsSources h => Sys2Proof.Machine.execReadIncidentsSources h s
  | .readIncidentsChannels h => Sys2Proof.Machine.execReadIncidentsChannels h s
  | .setTemplate h n d => Sys2Proof.Machine.execSetTemplate h n d s
  | .setAnnouncePlan h n d => Sys2Proof.Machine.execSetAnnouncePlan h n d s
  | .setScheduled h n f => Sys2Proof.Machine.execSetScheduled h n f s
  | .announce h stations template priority params reminder => Sys2Proof.Machine.execAnnounce h stations template priority params reminder s
  | .cancelAnnounce h stations template => Sys2Proof.Machine.execCancelAnnounce h stations template s
  | .readAnnounceStation h station => Sys2Proof.Machine.execReadAnnounceStation h station s
  | .readAnnounceTemplates h => Sys2Proof.Machine.execReadAnnounceTemplates h s
  | .readAnnouncePlan h => Sys2Proof.Machine.execReadAnnouncePlan h s
  | .readAnnounceScheduled h => Sys2Proof.Machine.execReadAnnounceScheduled h s
  | .playCompletion station => Sys2Proof.Machine.execPlayCompletion station s
  | .notBeforeReached station seq => Sys2Proof.Machine.execNotBeforeReached station seq s
  | .queueEntryExpiry station seq => Sys2Proof.Machine.execQueueEntryExpiry station seq s
  | .setRights h desk pairs => Sys2Proof.Machine.execSetRights h desk pairs s
  | .reloadRights h => Sys2Proof.Machine.execReloadRights h s
  | .readRights h => Sys2Proof.Machine.execReadRights h s
  | .clearAttention h categories => Sys2Proof.Machine.execClearAttention h categories s
  | .readStatus h => Sys2Proof.Machine.execReadStatus h s
  | .resync h => Sys2Proof.Machine.execResync h s
  | .frameStart => Sys2Proof.Machine.execFrameStart s
  | .frameSent => Sys2Proof.Machine.execFrameSent s
  | .supplyLoss => Sys2Proof.Machine.execSupplyLoss s

end Sys2Proof.Machine
end

