-- ==== Sys2Proof/Machine/Payload.lean ====
section
/-! DEFINITION. The command that a frame from the host spells: its kind and the fields of its payload (R182, R183, R184, R189,
R190). -/

namespace Sys2Proof.Machine

/-- A reader of the front of a payload; it fails where the payload has not the form its kind needs (R184, check 2). -/
abbrev Reader := StateT (List Byte) Option

/-- The next `w` bytes as a number, most significant first. -/
def rNat (w : Nat) : Reader Nat := fun l => if l.length < w then none else some (bytesNat (l.take w), l.drop w)

/-- The next `w` bytes as a signed number, two's complement. -/
def rInt (w : Nat) : Reader Int := do
  let n ← rNat w
  pure (if n < 256 ^ w / 2 then (n : Int) else (n : Int) - 256 ^ w)

/-- One byte among those below `n`, of which there is one case each. -/
def rCase (n : Nat) : Reader Nat := do
  let b ← rNat 1
  if b < n then pure b else failure

/-- An optional field: its presence byte, 0 or 1, and the field. -/
def rOpt {α : Type} (r : Reader α) : Reader (Option α) := do
  if (← rCase 2) = 0 then pure none else some <$> r

/-- `n` items. -/
def rTimes {α : Type} (r : Reader α) : Nat → Reader (List α)
  | 0 => pure []
  | n + 1 => do
    let a ← r
    let l ← rTimes r n
    pure (a :: l)

/-- A list of varying length: its count and its items. -/
def rList {α : Type} (r : Reader α) : Reader (List α) := do rTimes r (← rNat 1)

/-- A set as a mask of `w` bytes, rising. -/
def rMask (w : Nat) : Reader (List Nat) := do
  let n ← rNat w
  pure ((List.range (8 * w)).filter (fun i => n.testBit i))

/-- An enumerated value among its listed ones, or the byte beyond them. -/
def rEnum {α : Type} (l : List α) : Reader (Enum α) := do
  let b ← rNat 1
  pure (match l[b]? with
    | some a => .val a
    | none => .outside b)

/-- A number or ANY. -/
def rAny (w : Nat) : Reader OrAny := do
  if (← rCase 2) = 0 then OrAny.num <$> rNat w else pure .any

/-- A definition's fields or its removal. -/
def rDefinition {α : Type} (r : Reader α) : Reader (Definition α) := do
  if (← rCase 2) = 0 then Definition.fields <$> r else pure .removal

/-! ## Listed values, in the order of their rules -/

def listSeverity : List Severity := [.emergency, .major, .minor]
def listAction : List Action := [.deEnergise, .hold, .restrict, .none]
def listMode : List Mode := [.latched, .perCycle]
def listPriority : List Priority := [.emergency, .disruption, .service, .routine]
def listLevel : List Level := [.none, .monitor, .operate, .full]
def listSource : List SourceKind :=
  [.trip, .detection, .escalation, .desk, .sectionFault, .feedLost, .provingLow, .provingTimeout, .integrity, .unreleasedDeparture]

/-! ## Fields of the requests -/

def rStation : Reader StationFields := do pure { area := ← rNat 1, lead := ← rNat 2 }

def rStop : Reader StopFields := do
  pure { station := ← rNat 1, direction := ← rEnum [.up, .down], sect := ← rNat 1, minDwell := ← rNat 2, maxDwell := ← rNat 2,
         headway := ← rNat 2, profile := ← rNat 1, nextLink := ← rOpt (rNat 1) }

def rLink : Reader LinkFields := do
  pure { fromStop := ← rNat 1, toStop := ← rNat 1, sect := ← rNat 1, run0 := ← rNat 2, run1 := ← rNat 2, run2 := ← rNat 2,
         run3 := ← rNat 2 }

def rSection : Reader SectionFields := do
  pure { zone := ← rNat 1, area := ← rNat 1, deadTime := ← rNat 2, cycleTime := ← rNat 2, settleTime := ← rNat 2,
         energiseTimeout := ← rNat 2, isolateTimeout := ← rNat 2, provingInterval := ← rNat 4, provingDuration := ← rNat 2,
         provingTimeout := ← rNat 2 }

def rZone : Reader ZoneFields := do
  pure { area := ← rNat 1, normalCap := ← rNat 1, tieCap := ← rNat 1, vtrip := ← rNat 2, ht := ← rNat 2, hc := ← rNat 2,
         vdead := ← rNat 2, compareOnly := ← rNat 1, startWindow := ← rNat 2, releaseTimeout := ← rNat 2, starvation := ← rNat 1 }

def rMerge : Reader MergeFields := do
  pure { stop := ← rNat 1, linkA := ← rNat 1, linkB := ← rNat 1, separation := ← rNat 2 }

def rEntry : Reader EntryFields := do
  pure { stop := ← rNat 1, sa := ← rOpt (rNat 4), sd := ← rOpt (rNat 4), dmin := ← rNat 2, dmax := ← rNat 2, profile := ← rNat 1 }

def rTrip : Reader TripFields := do
  pure { number := ← rNat 2, dayMask := ← rMask 1, next := ← rOpt (rNat 2), entries := ← rList rEntry }

def rReplacement : Reader Replacement := do
  pure { stop := ← rNat 1, sa := ← rOpt (rNat 4), sd := ← rOpt (rNat 4), dmin := ← rNat 2, dmax := ← rNat 2 }

def rTripInput : Reader TripInputFields := do
  pure { qualTime := ← rNat 1, mode := ← rEnum listMode, targets := ← rMask 3, action := ← rEnum listAction,
         severity := ← rEnum listSeverity }

def rDetectionKind : Reader DetectionKindFields := do
  pure { handling := ← rEnum [.direct, .counted], severity := ← rEnum listSeverity, action := ← rEnum listAction,
         mode := ← rEnum listMode, scope := ← rEnum [.stopSection, .station] }

def rEscalation : Reader EscalationFields := do
  pure { kind := ← rNat 1, filter := ← rAny 1, period := ← rNat 1, severity := ← rEnum listSeverity, action := ← rEnum listAction,
         mode := ← rEnum listMode }

def rLocation : Reader RaiseLocation := do
  if (← rCase 2) = 0 then RaiseLocation.stop <$> rNat 1 else RaiseLocation.sect <$> rNat 1

def rTemplate : Reader TemplateFields := do pure { length := ← rNat 2, params := ← rNat 1 }

def rPlan : Reader PlanFields := do
  pure { source := ← rEnum listSource, number := ← rAny 2, minSeverity := ← rEnum listSeverity, opening := ← rNat 1,
         reminder := ← rOpt (rNat 1), interval := ← rNat 2, resumed := ← rOpt (rNat 1) }

def rScheduled : Reader ScheduledFields := do
  pure { enabled := ← rNat 1, dayMask := ← rMask 1, hour := ← rAny 1, minute := ← rAny 1, second := ← rAny 1,
         mode := ← rEnum [.once, .recurring], stations := ← rMask 4, template := ← rNat 1, priority := ← rEnum listPriority }

def rRemaining : Reader Remaining := do
  if (← rCase 2) = 0 then Remaining.count <$> rNat 1 else pure .untilClosed

def rReminder : Reader ReminderFields := do pure { template := ← rNat 1, interval := ← rNat 2, count := ← rRemaining }

def rLevelPair : Reader (Nat × Enum Level) := do pure (← rNat 1, ← rEnum listLevel)

/-! ## The requests (R189) -/

/-- The request kinds, in the order of R189's table. -/
def ReqKind.all : List ReqKind :=
  [.defineStation, .defineStop, .defineLink, .defineSection, .defineZone, .defineMerge, .defineClass, .startService, .stopService,
    .restart, .setParam, .readLine, .setTime, .setTrim, .adjustTime, .readTime, .loadTrip, .cancelTrip, .retimeTrip, .eraseTimetable,
    .readTrip, .arrival, .departure, .breakerFeedback, .feedMeasure, .proveResult, .detection, .trainEnter, .assignTrip,
    .trainLeave, .readTrains, .setDwell, .readRegulation, .holdTrain, .releaseTrain, .holdPlatform, .releasePlatform, .readGate,
    .energise, .isolate, .isolateOnClear, .earth, .unearth, .proveNow, .readSection, .readZones, .setTripInput, .setDetectionKind,
    .setEscalation, .raiseIncident, .ackIncident, .clearIncident, .testDetection, .readIncidents, .setTemplate, .setAnnouncePlan,
    .setScheduled, .announce, .cancelAnnounce, .readAnnounce, .setRights, .reloadRights, .readRights, .clearAttention, .readStatus,
    .resync]

/-- The request kind of a kind byte. -/
def kindOfByte (b : Nat) : Option ReqKind := ReqKind.all.find? (fun k => ReqKind.code k = b)

/-- The forms of READ_TRIP, READ_REGULATION, READ_GATE, READ_INCIDENTS and READ_ANNOUNCE, which are their first field. -/
def rReadTrip (h : Hdr) : Reader Instr := do
  match ← rCase 3 with
  | 0 => pure (.readTripByNumber h (← rNat 2))
  | 1 => pure (.readTripNext h (← rNat 2))
  | _ => pure (.readTripStore h)

def rReadRegulation (h : Hdr) : Reader Instr := do
  match ← rCase 3 with
  | 0 => pure (.readRegulationParameters h)
  | 1 => pure (.readRegulationStop h (← rNat 1))
  | _ => pure (.readRegulationMerge h (← rNat 1))

def rReadGate (h : Hdr) : Reader Instr := do
  match ← rCase 2 with
  | 0 => pure (.readGateZone h (← rNat 1))
  | _ => pure (.readGatePlatforms h)

def rReadIncidents (h : Hdr) : Reader Instr := do
  match ← rCase 4 with
  | 0 => pure (.readIncidentsTable h)
  | 1 => pure (.readIncidentsOne h (← rNat 2))
  | 2 => pure (.readIncidentsSources h)
  | _ => pure (.readIncidentsChannels h)

def rReadAnnounce (h : Hdr) : Reader Instr := do
  match ← rCase 4 with
  | 0 => pure (.readAnnounceStation h (← rNat 1))
  | 1 => pure (.readAnnounceTemplates h)
  | 2 => pure (.readAnnouncePlan h)
  | _ => pure (.readAnnounceScheduled h)

/-- The fields of a request of a kind, in the order its rule lists them. -/
def rRequest (h : Hdr) : ReqKind → Reader Instr
  | .defineStation => do pure (.defineStation h (← rNat 1) (← rDefinition rStation))
  | .defineStop => do pure (.defineStop h (← rNat 1) (← rDefinition rStop))
  | .defineLink => do pure (.defineLink h (← rNat 1) (← rDefinition rLink))
  | .defineSection => do pure (.defineSection h (← rNat 1) (← rDefinition rSection))
  | .defineZone => do pure (.defineZone h (← rNat 1) (← rDefinition rZone))
  | .defineMerge => do pure (.defineMerge h (← rNat 1) (← rDefinition rMerge))
  | .defineClass => do pure (.defineClass h (← rNat 1) (← rDefinition (rNat 1)))
  | .startService => pure (.startService h)
  | .stopService => pure (.stopService h)
  | .restart => pure (.restart h)
  | .setParam => do pure (.setParam h (← rNat 1) (← rOpt (rNat 1)) (← rInt 4))
  | .readLine => do pure (.readLine h (← rNat 1) (← rOpt (rNat 1)))
  | .setTime => do pure (.setTime h (← rNat 4) (← rNat 1))
  | .setTrim => do pure (.setTrim h (← rInt 2))
  | .adjustTime => do pure (.adjustTime h (← rInt 2))
  | .readTime => pure (.readTime h)
  | .loadTrip => do pure (.loadTrip h (← rTrip))
  | .cancelTrip => do pure (.cancelTrip h (← rNat 2))
  | .retimeTrip => do pure (.retimeTrip h (← rNat 2) (← rNat 1) (← rList rReplacement))
  | .eraseTimetable => pure (.eraseTimetable h)
  | .readTrip => rReadTrip h
  | .arrival => do pure (.arrival h (← rNat 2) (← rNat 1) (← rOpt (rNat 4)))
  | .departure => do pure (.departure h (← rNat 2) (← rNat 1) (← rOpt (rNat 4)))
  | .breakerFeedback => do pure (.breakerFeedback h (← rNat 1) (← rEnum [.opened, .closed]))
  | .feedMeasure => do pure (.feedMeasure h (← rNat 1) (← rNat 2) (← rNat 2))
  | .proveResult => do pure (.proveResult h (← rNat 1) (← rEnum [.ok, .low]))
  | .detection => do pure (.detection h (← rNat 1) (← rNat 1) (← rEnum [.active, .ended]))
  | .trainEnter => do pure (.trainEnter h (← rNat 2) (← rNat 1) (← rNat 1) (← rOpt (rNat 2)))
  | .assignTrip => do pure (.assignTrip h (← rNat 2) (← rNat 2))
  | .trainLeave => do pure (.trainLeave h (← rNat 2))
  | .readTrains => do pure (.readTrains h (← rOpt (rNat 2)))
  | .setDwell => do pure (.setDwell h (← rNat 2) (← rNat 2))
  | .readRegulation => rReadRegulation h
  | .holdTrain => do pure (.holdTrain h (← rNat 2))
  | .releaseTrain => do pure (.releaseTrain h (← rNat 2))
  | .holdPlatform => do pure (.holdPlatform h (← rNat 1))
  | .releasePlatform => do pure (.releasePlatform h (← rNat 1))
  | .readGate => rReadGate h
  | .energise => do pure (.energise h (← rNat 1))
  | .isolate => do pure (.isolate h (← rNat 1))
  | .isolateOnClear => do pure (.isolateOnClear h (← rNat 1))
  | .earth => do pure (.earth h (← rNat 1))
  | .unearth => do pure (.unearth h (← rNat 1))
  | .proveNow => do pure (.proveNow h (← rNat 1))
  | .readSection => do pure (.readSection h (← rNat 1))
  | .readZones => pure (.readZones h)
  | .setTripInput => do pure (.setTripInput h (← rNat 1) (← rTripInput))
  | .setDetectionKind => do pure (.setDetectionKind h (← rNat 1) (← rDetectionKind))
  | .setEscalation => do pure (.setEscalation h (← rNat 1) (← rEscalation))
  | .raiseIncident => do pure (.raiseIncident h (← rEnum listSeverity) (← rEnum listAction) (← rMask 3) (← rLocation))
  | .ackIncident => do pure (.ackIncident h (← rNat 2))
  | .clearIncident => do pure (.clearIncident h (← rNat 2))
  | .testDetection => do pure (.testDetection h (← rNat 1) (← rNat 1))
  | .readIncidents => rReadIncidents h
  | .setTemplate => do pure (.setTemplate h (← rNat 1) (← rDefinition rTemplate))
  | .setAnnouncePlan => do pure (.setAnnouncePlan h (← rNat 1) (← rDefinition rPlan))
  | .setScheduled => do pure (.setScheduled h (← rNat 1) (← rScheduled))
  | .announce => do
    pure (.announce h (← rMask 4) (← rNat 1) (← rEnum listPriority) (← rList (rNat 2)) (← rOpt rReminder))
  | .cancelAnnounce => do pure (.cancelAnnounce h (← rMask 4) (← rNat 1))
  | .readAnnounce => rReadAnnounce h
  | .setRights => do pure (.setRights h (← rNat 1) (← rList rLevelPair))
  | .reloadRights => pure (.reloadRights h)
  | .readRights => pure (.readRights h)
  | .clearAttention => do pure (.clearAttention h (← rMask 2))
  | .readStatus => pure (.readStatus h)
  | .resync => pure (.resync h)

/-- The whole payload of a request, no byte left over. -/
def readPayload (k : ReqKind) (h : Hdr) (payload : List Byte) : Option Instr :=
  match (rRequest h k).run payload with
  | some (i, []) => some i
  | _ => none

/-- Bytes of 0, enough for every request's fields with every presence byte, count and selector 0. -/
def zeroBytes : List Byte := List.replicate 64 0

/-- A request of a kind whose payload has not the form: the dispatch refuses it with FORMAT before it looks at a field. -/
def malformed (k : ReqKind) (h : Hdr) : Option Instr := ((rRequest { h with formed := false } k).run zeroBytes).map Prod.fst

/-- The command a whole frame spells, its sync byte left out and no byte of it damaged in a way the bytes do not show: none while it
is incomplete (R182 to R184, R189). -/
def commandOf (l : List Byte) : Option Instr :=
  match judgeFrame l with
  | .incomplete => none
  | .discard c => some (.linkErrorDiscard c)
  | .wellFormed kind tag desk payload =>
    match kindOfByte kind with
    | none => some (.kindRefusal tag desk kind)
    | some k =>
      let h : Hdr := { tag := tag, desk := desk, formed := true }
      (readPayload k h payload).or (malformed k h)

/-! ## The receiver (R183) -/

/-- The byte that starts a frame; one with a low stop bit starts none (R183, log 8). -/
def RxByte.isSync (b : RxByte) : Bool := !b.low && b.value = 0x5A#8

/-- The bytes of a frame before the first whose stop bit is low. -/
def goodBytes (l : List RxByte) : List Byte := (l.takeWhile (fun b => !b.low)).map RxByte.value

/-- The verdict on the bytes of a frame, its sync byte left out: a low stop bit discards a frame that was not judged before it (R183). -/
def verdictOf (l : List RxByte) : FrameVerdict :=
  match judgeFrame (goodBytes l) with
  | .incomplete => if l.any RxByte.low then .discard .lowStopBit else .incomplete
  | v => v

/-- The command that stands for what the receiver finds in the bytes received of a frame, if anything (R183, R184). -/
def foundIn (l : List RxByte) : Option Instr :=
  match verdictOf l with
  | .incomplete => none
  | .discard c => some (.linkErrorDiscard c)
  | .wellFormed _ _ _ _ => commandOf (goodBytes l)

end Sys2Proof.Machine
end

