-- ==== Sys2Proof/Machine/Events.lean ====
section
/-! DEFINITION. The part left to itself: which event of its own is due, a byte on RXD, and one edge of the reference clock (R19, R135,
R182, R183, R192; log 1, log 8, log 19). -/

namespace Sys2Proof.Machine

/-- The tick length: 1,000,000 less the trim (R19). -/
def Clock.tickLength (c : Clock) : Int := (Config.tickCycles : Int) - c.trim

/-- The next edge of the reference clock is a tick: the count has reached the tick length, or passed it where a trim has shortened the
length (R19, R20). -/
def tickDue (s : State) : Bool := s.powered && decide (s.clock.tickLength ≤ s.clock.cycleCount + 1)

/-- The start-up wait is over (R192). -/
def readyDue (s : State) : Bool := s.live && !s.link.ready && decide (Config.startupCycles ≤ s.link.waitCycles)

/-- The start bit of a byte still to come has not begun (R182). -/
def RxItem.notBegun : RxItem → Bool
  | .byte n _ => decide (Config.byteCycles ≤ n)
  | .gap => false

/-- The stop bit of a byte has ended; a mark of a gap has nothing to wait for (R182). -/
def RxItem.ended : RxItem → Bool
  | .byte n _ => decide (n = 0)
  | .gap => true

/-- The gap in the frame being received has exceeded 5 ms: since the last stop bit, and no start bit has ended it (R182, R183). -/
def gapDue (s : State) : Bool :=
  s.linkUp && s.link.receiver = .inFrame && decide (Config.gapCycles < s.link.gapCycles)
    && s.rxd.head?.all RxItem.notBegun

/-- A byte on RXD has come to the end of its stop bit, or the mark of a gap is next (R182, R183). -/
def itemDue (s : State) : Bool := s.powered && s.rxd.head?.any RxItem.ended

/-- The lowest trip input whose qualification time is reached (R135). -/
def qualifyDue (s : State) : Option Nat :=
  if s.live then s.inm.inputs.toList.findIdx? (fun t => t.qual = .qualifying && decide (t.qualLimit ≤ t.qualCycles)) else none

/-- The frame being sent has been on the line for all its bytes (R182). -/
def sentDue (s : State) : Bool :=
  s.live && s.link.sending.any (fun f => decide (Config.byteCycles * f.bytes.length ≤ s.link.sentCycles))

/-- The transmitter is free and has a frame to choose (R186). -/
def sendDue (s : State) : Bool :=
  s.linkUp && s.link.sending.isNone && (!s.link.outstanding.isEmpty || s.link.slot.isSome || !s.link.outbound.isEmpty)

/-- The timer event of a train that is due. -/
def trainEvent (s : State) (q : Nat × Train) : Option Instr :=
  if dwellDue s q.2 then some (.dwellExpiry q.1)
  else if mergeGapDue s q.2 then some (.mergeGapExpiry q.1)
  else if releaseDue s q.1 q.2 then some (.releaseTimeout q.1)
  else none

/-- The start-window end of a zone that is due. -/
def windowEvent (s : State) (q : Nat × Arbiter) : Option Instr :=
  (q.2.grants.find? (fun g => g.startedAt.isSome && reached s.now g.expiry)).map (fun g => .startWindowEnd q.1 g.train)

/-- The timer event of a section that is due. -/
def sectionEvent (s : State) (q : Nat × SectRec) : Option Instr :=
  if q.2.state = .dead && deferredDue s.now q.2 then some (.deferredEnergiseStart q.1)
  else if timeoutDue s.now .energising q.2 then some (.energiseTimeout q.1)
  else if timeoutDue s.now .isolating q.2 then some (.isolateTimeout q.1)
  else if timeoutDue s.now .proving q.2 then some (.provingTimeout q.1)
  else if reachedOpt s.now q.2.interval then some (.provingIntervalExpiry q.1)
  else if settleDue s.now q.2 then some (.settleWatchExpiry q.1)
  else none

/-- The timer event of a station that is due. -/
def stationEvent (s : State) (q : Nat × StationChannel) : Option Instr :=
  if playDue s.now q.2 then some (.playCompletion q.1)
  else
    match q.2.queue.find? (notBeforeDue s.now) with
    | some e => some (.notBeforeReached q.1 e.seq)
    | none => (q.2.queue.find? (fun e => reachedOpt s.now e.expiry)).map (fun e => .queueEntryExpiry q.1 e.seq)

/-- The events of the live blocks, in a fixed order. -/
def blockEvent (s : State) : Option Instr :=
  if s.live then
    (if s.scrubDue then some .scrub else if s.liftDue then some .perCycleLift else none).or
      ((s.trt.trains.findSome? (trainEvent s)).or
        ((s.gate.arbiters.findSome? (windowEvent s)).or
          ((s.trc.sections.findSome? (sectionEvent s)).or (s.anc.channels.findSome? (stationEvent s)))))
  else none

/-- The first event of the part's own that is due, if any (log 1). -/
def firstDue (s : State) : Option Instr :=
  if readyDue s then some .linkReady
  else if gapDue s then some .byteGapTimeout
  else
    match qualifyDue s with
    | some n => some (.tripQualification n)
    | none =>
      (blockEvent s).or (if sentDue s then some .frameSent else if sendDue s then some .transmitNextFrame else none)

/-- A counter that runs while `on`. -/
def countIf (on : Bool) (n : Nat) : Nat := if on then n + 1 else n

/-- A qualification counter counts one reference cycle (R135). -/
def TripInput.count (t : TripInput) : TripInput := { t with qualCycles := countIf (t.qual = .qualifying) t.qualCycles }

/-- The next byte on RXD is one reference cycle nearer. -/
def nearer : List RxItem → List RxItem
  | .byte n b :: rest => .byte (n - 1) b :: rest
  | l => l

/-- One edge of the reference clock: the counters in reference cycles that run are each one higher (R19, R135, R183, R192). -/
def countEdge (s : State) : State :=
  if s.powered then
    let s1 := { s with clock := { s.clock with cycleCount := s.clock.cycleCount + 1 }, rxd := nearer s.rxd }
    if s.live then
      { s1 with
        inm := { s1.inm with inputs := s1.inm.inputs.map TripInput.count }
        link := { s1.link with
          waitCycles := countIf (!s1.link.ready) s1.link.waitCycles
          gapCycles := countIf (s1.link.receiver = .inFrame) s1.link.gapCycles
          sentCycles := countIf s1.link.sending.isSome s1.link.sentCycles } }
    else s1
  else s

/-! ## Reception byte by byte (R183, log 8) -/

/-- A byte reaches the receiver: one that hunts looks for the sync byte, and one in a frame adds it to the frame and judges that. What it
finds is put in the queue (R183). -/
def receiveByte (b : RxByte) (s : State) : State :=
  match s.link.receiver with
  | .hunting => { s with pending := if b.isSync then [.frameStart] else [] }
  | .inFrame =>
    { s with
      pending := (foundIn (s.link.frame ++ [b])).toList
      link := { s.link with gapCycles := 0, frame := s.link.frame ++ [b] } }

/-- What comes next on RXD is taken; a receiver that is not ready ignores it (R183, R192). Whether the link is ready is looked at when the
stop bit has ended, so a byte that began before is taken: a DESIGN CHOICE (log 8). -/
def takeItem (s : State) : State :=
  match s.rxd with
  | [] => s
  | i :: rest =>
    let s1 := { s with rxd := rest }
    if s.linkUp then
      match i with
      | .byte _ b => receiveByte b s1
      | .gap => { s1 with pending := if s.link.receiver = .inFrame then [.byteGapTimeout] else [] }
    else s1

/-- An edge of the reference clock: a tick, or one count more (R19, R20). -/
def nextEdge (s : State) : Host.Outcome State Fault Refusal :=
  if tickDue s then exec (.tick []) (countEdge s) else .next (countEdge s)

/-- A step with no command waiting: the first event due, or what comes on RXD, or an edge of the reference clock (log 1). -/
def idle (s : State) : Host.Outcome State Fault Refusal :=
  match firstDue s with
  | some c => exec c s
  | none => if itemDue s then .next (takeItem s) else nextEdge s

end Sys2Proof.Machine
end

