-- ==== Sys2Proof/Safety.lean ====
section
/-! DEFINITION. What the statements about the part are made of: the invariants its rules give, and the words for a request that is
taken and for what a command leaves alone. -/

namespace Sys2Proof.Safety

open Sys2Proof.Machine

/-! ## Invariants -/

/-- R178, R180: the pending set holds no category twice and stands in priority order, the announced highest is its first, and a frame
waiting in the attention slot carries the set and its first as they stand. -/
def AttentionRecord (s : State) : Prop :=
  s.atu.pending = Category.all.filter (fun c => s.atu.pending.contains c) ∧ s.atu.announced = s.atu.pending.head? ∧
    ∀ f, s.link.slot = some f → f.pending = s.atu.pending ∧ f.highest = s.atu.pending.head?

/-- An entry of this severity is ACTIVE, or a trip input of this captured severity is in force without an entry (R150). -/
def Alarms (s : State) (v : Severity) : Prop :=
  (∃ p ∈ s.inm.incidents, p.2.state = .active ∧ p.2.severity = v) ∨
    ∃ t ∈ s.inm.inputs.toList, ∃ c, t.inForce = true ∧ t.entry = none ∧ t.captured = some c ∧ c.severity = v

/-- R151: an EMERGENCY entry is ACTIVE or ACKED, or a trip input of captured severity EMERGENCY is in force without an entry. -/
def EmergencyInForce (s : State) : Prop :=
  (∃ p ∈ s.inm.incidents, p.2.state ≠ .lifted ∧ p.2.severity = .emergency) ∨
    ∃ t ∈ s.inm.inputs.toList, ∃ c, t.inForce = true ∧ t.entry = none ∧ t.captured = some c ∧ c.severity = .emergency

/-- R30, R150, R151: the categories that are followed and LINE STOP agree with what they follow. -/
def SignsFollow (s : State) : Prop :=
  (Category.clockUnset ∈ s.atu.pending ↔ s.clock.state = .unset) ∧
    (Category.emergencyIncident ∈ s.atu.pending ↔ Alarms s .emergency) ∧
    (Category.majorIncident ∈ s.atu.pending ↔ Alarms s .major) ∧
    (Category.minorIncident ∈ s.atu.pending ↔ Alarms s .minor ∨ s.inm.tableFull = true) ∧
    (s.inm.lineStop = true ↔ EmergencyInForce s)

/-- The level of a desk in an area of a table, NONE outside the table. -/
def levelIn (t : RightsTable) (desk area : Nat) : Level := ((t[desk]?).bind (fun v => v[area]?)).getD .none

/-- R174: desk 0 is FULL in every area in both tables. -/
def DeskZeroFull (s : State) : Prop := ∀ a, a < 16 → levelIn s.drt.inForce 0 a = .full ∧ levelIn s.drt.pending 0 a = .full

/-- R183, R184, R187: the limits of the control link. -/
def LinkLimits (s : State) : Prop :=
  s.link.outstanding.length ≤ 4 ∧ s.link.outbound.length ≤ 96 ∧ s.link.errors ≤ 65535

/-- R18: the clock record stays in its ranges. -/
def ClockRanges (s : State) : Prop :=
  s.clock.timeOfDay < 864000 ∧ s.clock.dayOfWeek < 7 ∧ -200 ≤ s.clock.trim ∧ s.clock.trim ≤ 200 ∧ -20 ≤ s.clock.slew ∧
    s.clock.slew ≤ 20 ∧ s.clock.serviceOrigin ≤ 23 ∧ s.clock.serviceDay < 7

/-- R2, R5, R6: every station, section and zone lies in one of the areas 0 to 15. -/
def AreasInRange (s : State) : Prop :=
  (∀ p ∈ s.lds.stations, p.2.area < 16) ∧ (∀ p ∈ s.lds.sections, p.2.area < 16) ∧ ∀ p ∈ s.lds.zones, p.2.area < 16

/-- R98: in every zone the units in use equal the sum of the units of the zone's grants. -/
def UnitsBalance (s : State) : Prop := ∀ p ∈ s.gate.arbiters, p.2.inUse = (p.2.grants.map Grant.units).sum

/-- The number of train records located in section `x` (R53). -/
def trainsIn (s : State) (x : Nat) : Nat := s.trt.trains.countP (fun p => decide (locSect s p.2.loc = some x))

/-- R53: the occupancy count of every section equals the number of train records located in it. -/
def OccupancyTrue (s : State) : Prop := ∀ x n, tget s.trt.occupancy x = some n → n = trainsIn s x

/-- R1: in SETUP no train records exist and no station has an announcement channel. -/
def SetupEmpty (s : State) : Prop := s.lds.lineState = .setup → s.trt.trains = [] ∧ s.anc.channels = []

/-- Store order (R34): by the Sd of the first entry, or the one last written where that entry is unreadable (log 45), then by trip
number. -/
def storeBefore (a b : Trip) : Prop := a.firstSd < b.firstSd ∨ (a.firstSd = b.firstSd ∧ a.number < b.number)

/-- R34: the trips are kept in store order, so no number twice. -/
def StoreOrdered (s : State) : Prop := s.store.trips.Pairwise storeBefore ∧ (s.store.trips.map Trip.number).Nodup

/-- The capacities of 00 that operation can reach: trains, trips, stop entries, incidents, the entries of a station queue, owed provings
and the corrected count. -/
def WithinCapacities (s : State) : Prop :=
  s.trt.trains.length ≤ 48 ∧ s.store.trips.length ≤ 2048 ∧ entryCount s.store.trips ≤ 32768 ∧ s.inm.incidents.length ≤ 32 ∧
    (∀ p ∈ s.anc.channels, p.2.queue.length ≤ 8) ∧ (∀ p ∈ s.trc.sections, p.2.owed ≤ 8) ∧ s.store.corrected ≤ 255

/-- The numbered tables are in canonical form: no number twice, rising. -/
structure TablesCanonical (s : State) : Prop where
  stations : twf s.lds.stations
  stops : twf s.lds.stops
  links : twf s.lds.links
  sectionDefs : twf s.lds.sections
  zoneDefs : twf s.lds.zones
  mergeDefs : twf s.lds.merges
  classes : twf s.lds.classes
  trains : twf s.trt.trains
  occupancy : twf s.trt.occupancy
  headways : twf s.reg.headways
  lastRegs : twf s.reg.lastRegs
  mergeRecs : twf s.reg.merges
  arbiters : twf s.gate.arbiters
  sections : twf s.trc.sections
  zones : twf s.trc.zones
  incidents : twf s.inm.incidents
  effective : twf s.inm.effective
  templates : twf s.anc.templates
  plans : twf s.anc.plans
  channels : twf s.anc.channels

/-- R142: no two entries of the incident table have the same source and location. -/
def OneEntryEach (t : Table Incident) : Prop := t.Pairwise (fun p q => ¬ (p.2.source = q.2.source ∧ p.2.loc = q.2.loc))

/-- R5, R6, R53, R149: a section has a record, an occupancy count and an effective action exactly while it is defined, and a zone has its
record exactly while it is defined. -/
def RecordsFollow (s : State) : Prop :=
  ∀ n, thas s.trc.sections n = thas s.lds.sections n ∧ thas s.trt.occupancy n = thas s.lds.sections n ∧
    thas s.inm.effective n = thas s.lds.sections n ∧ thas s.trc.zones n = thas s.lds.zones n

/-- An action is in force on a section: some entry in force, or some trip input in force without an entry, has it and names the
section (R149). -/
def ActsOn (s : State) (x : Nat) (a : Action) : Prop :=
  (∃ p ∈ s.inm.incidents, p.2.state ≠ .lifted ∧ p.2.action = a ∧ x ∈ p.2.targets) ∨
    ∃ t ∈ s.inm.inputs.toList, ∃ c, t.inForce = true ∧ t.entry = none ∧ t.captured = some c ∧ c.action = a ∧ x ∈ c.targets

/-- R149: a section's effective action is the strongest action in force on it, NONE where there is none. -/
def EffectiveStrongest (s : State) : Prop :=
  ∀ x a, x < 24 → tget s.inm.effective x = some a → (a = .none ∨ ActsOn s x a) ∧ ∀ b, ActsOn s x b → Action.code a ≤ Action.code b

/-- R137, R140, R142: an entry of a trip input is located nowhere, an input that has one in the table and is in force names its entry, and
an INTEGRITY entry has no targets. -/
def SourcesSound (s : State) : Prop :=
  ∀ p ∈ s.inm.incidents, (p.2.source.kind = .integrity → p.2.targets = []) ∧
    (p.2.source.kind = .trip → p.2.loc = .none ∧
      ∀ t, s.inm.inputs[p.2.source.number]? = some t → t.inForce = true → t.entry ≠ none)

/-- R123: a section under the effective action DE_ENERGISE is not ENERGISING, LIVE or PROVING, and waits for no deferred energise. -/
def DeEnergisedDown (s : State) : Prop :=
  ∀ x r, effectiveOf s x = .deEnergise → tget s.trc.sections x = some r →
    r.state ≠ .energising ∧ r.state ≠ .live ∧ r.state ≠ .proving ∧ ∀ c, r.pending ≠ some (.energiseDeferred c)

/-- A standing train's way ahead: its next link lies in section `x`, which is LIVE, does not owe the 8 provings that force it,
waits for no isolate-on-clear, and has neither HOLD nor DE_ENERGISE as its effective action (R92, R93, R128). -/
def WayAhead (s : State) (t : Train) (x : Nat) : Prop :=
  nextSect s t = some x ∧
    (∃ r, tget s.trc.sections x = some r ∧ r.state = .live ∧ r.owed ≠ 8 ∧ r.pending ≠ some .isolateOnClear) ∧
    effectiveOf s x ≠ .hold ∧ effectiveOf s x ≠ .deEnergise

/-- No desk holds a train, by its number or by its platform (R92, R107, R108). -/
def Unheld (s : State) (t : Train) : Prop := t.deskHold = false ∧ ∀ p, t.loc = .stop p → p ∉ s.gate.platformHolds

/-- R92, R93: a RELEASED train has no hold cause, is held by no desk, has its way ahead, and holds a GRANTED grant in the zone of its way. -/
def ReleasesSound (s : State) : Prop :=
  ∀ n t, tget s.trt.trains n = some t → t.state = .released → t.causes = [] ∧ Unheld s t ∧
    ∃ x g a, WayAhead s t x ∧ t.grant = some g ∧ g.startedAt = none ∧ sectZone s x = some g.zone ∧
      tget s.gate.arbiters g.zone = some a ∧ ∃ c ∈ a.grants, c.train = n ∧ c.startedAt = none

/-- R96, R97: a train whose request waits in a zone's start list is HELD with AWAIT_GRANT alone, is held by no desk, has its way ahead in
that zone, and waits in no other place of a list; in SETUP there are no lists. -/
def RequestsSound (s : State) : Prop :=
  (s.lds.lineState = .setup → s.gate.arbiters = []) ∧
    ∀ z a, tget s.gate.arbiters z = some a → (a.starts.map Request.train).Nodup ∧
      ∀ r ∈ a.starts, ∃ t x, tget s.trt.trains r.train = some t ∧ t.state = .held ∧ t.causes = [.awaitGrant] ∧ Unheld s t ∧
        WayAhead s t x ∧ sectZone s x = some z

/-! ## Requests -/

/-- The header of a request; an event has none. -/
def header? : Instr → Option Hdr
  | .powerOn | .resetAsserted | .resetReleased | .linkReady | .tick _ | .scrub | .perCycleLift | .tripInputActive _
  | .tripInputInactive _ | .tripQualification _ | .byteGapTimeout | .linkErrorDiscard _ | .kindRefusal _ _ _ | .transmitNextFrame
  | .dwellExpiry _ | .mergeGapExpiry _ | .releaseTimeout _ | .startWindowEnd _ _ | .deferredEnergiseStart _ | .energiseTimeout _
  | .isolateTimeout _ | .provingTimeout _ | .provingIntervalExpiry _ | .settleWatchExpiry _ | .playCompletion _
  | .notBeforeReached _ _ | .queueEntryExpiry _ _ | .frameStart | .frameSent | .supplyLoss => none
  | .defineStation h _ _ | .defineStop h _ _ | .defineLink h _ _ | .defineSection h _ _ | .defineZone h _ _ | .defineMerge h _ _
  | .defineClass h _ _ | .startService h | .stopService h | .restart h | .setParam h _ _ _ | .serviceOrigin h _
  | .wearThreshold h _ | .assignGrace h _ | .regWeight h _ | .regGain h _ | .earlyBand h _ | .lateBand h _ | .profileStep h _
  | .approachTemplate h _ | .autoClear h _ | .readLine h _ _ | .setTime h _ _ | .setTrim h _ | .adjustTime h _ | .readTime h
  | .loadTrip h _ | .cancelTrip h _ | .retimeTrip h _ _ _ | .eraseTimetable h | .readTripByNumber h _ | .readTripNext h _
  | .readTripStore h | .arrival h _ _ _ | .departure h _ _ _ | .breakerFeedback h _ _ | .feedMeasure h _ _ _ | .proveResult h _ _
  | .detection h _ _ _ | .trainEnter h _ _ _ _ | .assignTrip h _ _ | .trainLeave h _ | .readTrains h _ | .setDwell h _ _
  | .readRegulationParameters h | .readRegulationStop h _ | .readRegulationMerge h _ | .holdTrain h _ | .releaseTrain h _
  | .holdPlatform h _ | .releasePlatform h _ | .readGateZone h _ | .readGatePlatforms h | .energise h _ | .isolate h _
  | .isolateOnClear h _ | .earth h _ | .unearth h _ | .proveNow h _ | .readSection h _ | .readZones h | .setTripInput h _ _
  | .setDetectionKind h _ _ | .setEscalation h _ _ | .raiseIncident h _ _ _ _ | .ackIncident h _ | .clearIncident h _
  | .testDetection h _ _ | .readIncidentsTable h | .readIncidentsOne h _ | .readIncidentsSources h | .readIncidentsChannels h
  | .setTemplate h _ _ | .setAnnouncePlan h _ _ | .setScheduled h _ _ | .announce h _ _ _ _ _ | .cancelAnnounce h _ _
  | .readAnnounceStation h _ | .readAnnounceTemplates h | .readAnnouncePlan h | .readAnnounceScheduled h | .setRights h _ _
  | .reloadRights h | .readRights h | .clearAttention h _ | .readStatus h | .resync h => some h

/-- The request kind of a request (R189); an event has none. -/
def kindOf? : Instr → Option ReqKind
  | .defineStation _ _ _ => some .defineStation
  | .defineStop _ _ _ => some .defineStop
  | .defineLink _ _ _ => some .defineLink
  | .defineSection _ _ _ => some .defineSection
  | .defineZone _ _ _ => some .defineZone
  | .defineMerge _ _ _ => some .defineMerge
  | .defineClass _ _ _ => some .defineClass
  | .startService _ => some .startService
  | .stopService _ => some .stopService
  | .restart _ => some .restart
  | .setParam _ _ _ _ | .serviceOrigin _ _ | .wearThreshold _ _ | .assignGrace _ _ | .regWeight _ _ | .regGain _ _
  | .earlyBand _ _ | .lateBand _ _ | .profileStep _ _ | .approachTemplate _ _ | .autoClear _ _ => some .setParam
  | .readLine _ _ _ => some .readLine
  | .setTime _ _ _ => some .setTime
  | .setTrim _ _ => some .setTrim
  | .adjustTime _ _ => some .adjustTime
  | .readTime _ => some .readTime
  | .loadTrip _ _ => some .loadTrip
  | .cancelTrip _ _ => some .cancelTrip
  | .retimeTrip _ _ _ _ => some .retimeTrip
  | .eraseTimetable _ => some .eraseTimetable
  | .readTripByNumber _ _ | .readTripNext _ _ | .readTripStore _ => some .readTrip
  | .arrival _ _ _ _ => some .arrival
  | .departure _ _ _ _ => some .departure
  | .breakerFeedback _ _ _ => some .breakerFeedback
  | .feedMeasure _ _ _ _ => some .feedMeasure
  | .proveResult _ _ _ => some .proveResult
  | .detection _ _ _ _ => some .detection
  | .trainEnter _ _ _ _ _ => some .trainEnter
  | .assignTrip _ _ _ => some .assignTrip
  | .trainLeave _ _ => some .trainLeave
  | .readTrains _ _ => some .readTrains
  | .setDwell _ _ _ => some .setDwell
  | .readRegulationParameters _ | .readRegulationStop _ _ | .readRegulationMerge _ _ => some .readRegulation
  | .holdTrain _ _ => some .holdTrain
  | .releaseTrain _ _ => some .releaseTrain
  | .holdPlatform _ _ => some .holdPlatform
  | .releasePlatform _ _ => some .releasePlatform
  | .readGateZone _ _ | .readGatePlatforms _ => some .readGate
  | .energise _ _ => some .energise
  | .isolate _ _ => some .isolate
  | .isolateOnClear _ _ => some .isolateOnClear
  | .earth _ _ => some .earth
  | .unearth _ _ => some .unearth
  | .proveNow _ _ => some .proveNow
  | .readSection _ _ => some .readSection
  | .readZones _ => some .readZones
  | .setTripInput _ _ _ => some .setTripInput
  | .setDetectionKind _ _ _ => some .setDetectionKind
  | .setEscalation _ _ _ => some .setEscalation
  | .raiseIncident _ _ _ _ _ => some .raiseIncident
  | .ackIncident _ _ => some .ackIncident
  | .clearIncident _ _ => some .clearIncident
  | .testDetection _ _ _ => some .testDetection
  | .readIncidentsTable _ | .readIncidentsOne _ _ | .readIncidentsSources _ | .readIncidentsChannels _ => some .readIncidents
  | .setTemplate _ _ _ => some .setTemplate
  | .setAnnouncePlan _ _ _ => some .setAnnouncePlan
  | .setScheduled _ _ _ => some .setScheduled
  | .announce _ _ _ _ _ _ => some .announce
  | .cancelAnnounce _ _ _ => some .cancelAnnounce
  | .readAnnounceStation _ _ | .readAnnounceTemplates _ | .readAnnouncePlan _ | .readAnnounceScheduled _ => some .readAnnounce
  | .setRights _ _ _ => some .setRights
  | .reloadRights _ => some .reloadRights
  | .readRights _ => some .readRights
  | .clearAttention _ _ => some .clearAttention
  | .readStatus _ => some .readStatus
  | .resync _ => some .resync
  | .powerOn | .resetAsserted | .resetReleased | .linkReady | .tick _ | .scrub | .perCycleLift | .tripInputActive _
  | .tripInputInactive _ | .tripQualification _ | .byteGapTimeout | .linkErrorDiscard _ | .kindRefusal _ _ _ | .transmitNextFrame
  | .dwellExpiry _ | .mergeGapExpiry _ | .releaseTimeout _ | .startWindowEnd _ _ | .deferredEnergiseStart _ | .energiseTimeout _
  | .isolateTimeout _ | .provingTimeout _ | .provingIntervalExpiry _ | .settleWatchExpiry _ | .playCompletion _
  | .notBeforeReached _ _ | .queueEntryExpiry _ _ | .frameStart | .frameSent | .supplyLoss => none

/-- What a request needs, by its class in the table of R176; ANNOUNCE and CANCEL_ANNOUNCE are not checked there, nor is an event. -/
def neededBy (s : State) : Instr → Need
  | .arrival _ _ p _ | .departure _ _ p _ | .detection _ _ p _ => .inArea .monitor (stopArea s p)
  | .breakerFeedback _ x _ | .proveResult _ x _ => .inArea .monitor (sectArea s x)
  | .feedMeasure _ z _ _ => .inArea .monitor (zoneArea s z)
  | .readLine _ k o => if k = 7 then .anyArea .monitor else .inArea .monitor (o.bind (objectArea s k))
  | .readTrains _ (some n) => .inArea .monitor (trainArea s n)
  | .readRegulationStop _ p => .inArea .monitor (stopArea s p)
  | .readRegulationMerge _ m => .inArea .monitor (mergeArea s m)
  | .readGateZone _ z => .inArea .monitor (zoneArea s z)
  | .readSection _ x => .inArea .monitor (sectArea s x)
  | .readIncidentsOne _ n => .inArea .monitor (incidentAreaOf s n)
  | .readAnnounceStation _ n => .inArea .monitor (stationArea s n)
  | .readTime _ | .readTripByNumber _ _ | .readTripNext _ _ | .readTripStore _ | .readTrains _ none | .readRegulationParameters _
  | .readGatePlatforms _ | .readZones _ | .readIncidentsTable _ | .readIncidentsSources _ | .readIncidentsChannels _
  | .readAnnounceTemplates _ | .readAnnouncePlan _ | .readAnnounceScheduled _ | .readRights _ | .readStatus _ | .resync _ =>
    .anyArea .monitor
  | .trainEnter _ _ _ p _ | .holdPlatform _ p | .releasePlatform _ p | .testDetection _ _ p => .inArea .operate (stopArea s p)
  | .assignTrip _ n _ | .setDwell _ n _ | .holdTrain _ n | .releaseTrain _ n | .trainLeave _ n => .inArea .operate (trainArea s n)
  | .energise _ x | .isolate _ x | .isolateOnClear _ x | .proveNow _ x => .inArea .operate (sectArea s x)
  | .ackIncident _ n => .inArea .operate (incidentAreaOf s n)
  | .raiseIncident _ _ _ l loc => .several .operate (raiseLocArea s loc :: (normSet 256 l).map (sectArea s))
  | .clearAttention _ _ => .anyArea .operate
  | .earth _ x | .unearth _ x => .inArea .full (sectArea s x)
  | .clearIncident _ n => .inArea .full (incidentAreaOf s n)
  | .setTime _ _ _ | .setTrim _ _ | .adjustTime _ _ | .defineStation _ _ _ | .defineStop _ _ _ | .defineLink _ _ _
  | .defineSection _ _ _ | .defineZone _ _ _ | .defineMerge _ _ _ | .defineClass _ _ _ | .startService _ | .stopService _
  | .restart _ | .loadTrip _ _ | .cancelTrip _ _ | .retimeTrip _ _ _ _ | .eraseTimetable _ | .setParam _ _ _ _
  | .serviceOrigin _ _ | .wearThreshold _ _ | .assignGrace _ _ | .regWeight _ _ | .regGain _ _ | .earlyBand _ _ | .lateBand _ _
  | .profileStep _ _ | .approachTemplate _ _ | .autoClear _ _ | .setRights _ _ _ | .reloadRights _ | .setTripInput _ _ _
  | .setDetectionKind _ _ _ | .setEscalation _ _ _ | .setTemplate _ _ _ | .setAnnouncePlan _ _ _ | .setScheduled _ _ _ => .lineWide
  | .announce _ _ _ _ _ _ | .cancelAnnounce _ _ _ | .powerOn | .resetAsserted | .resetReleased | .linkReady | .tick _ | .scrub
  | .perCycleLift | .tripInputActive _ | .tripInputInactive _ | .tripQualification _ | .byteGapTimeout | .linkErrorDiscard _
  | .kindRefusal _ _ _ | .transmitNextFrame | .dwellExpiry _ | .mergeGapExpiry _ | .releaseTimeout _ | .startWindowEnd _ _
  | .deferredEnergiseStart _ | .energiseTimeout _ | .isolateTimeout _ | .provingTimeout _ | .provingIntervalExpiry _
  | .settleWatchExpiry _ | .playCompletion _ | .notBeforeReached _ _ | .queueEntryExpiry _ _ | .frameStart | .frameSent
  | .supplyLoss => .unchecked

/-- The presence byte of the object number agrees with the parameter code of SET_PARAM and with the kind of READ_LINE (R190). -/
def presenceAgrees : Instr → Bool
  | .setParam _ code obj _ => paramForm code obj
  | .readLine _ kind obj => readLineForm kind obj
  | _ => true

/-- In one place, a level in an area or FULL in all areas where there is none, this level and area are lacking: the area given, or the
lowest below FULL (R176, R177). -/
def LacksAt (s : State) (desk : Nat) (l : Level) : Option Nat → Level → Option Nat → Prop
  | some n, level, area => level = l ∧ area = some n ∧ Level.code (levelIn s.drt.inForce desk n) < Level.code l
  | none, level, area => level = .full ∧ ∃ n, area = some n ∧ n < 16 ∧ levelIn s.drt.inForce desk n ≠ .full ∧
      ∀ m, m < n → levelIn s.drt.inForce desk m = .full

/-- A desk lacks this level in this area, none for ANY, for a need; where several places are named it is the first that lacks (R177). -/
def Lacks (s : State) (desk : Nat) (level : Level) (area : Option Nat) : Need → Prop
  | .inArea l a => LacksAt s desk l a level area
  | .anyArea l => level = l ∧ area = none ∧ ¬ ∃ a, a < 16 ∧ Level.code l ≤ Level.code (levelIn s.drt.inForce desk a)
  | .several l areas => ∃ pre a post, areas = pre ++ a :: post ∧ (∀ b ∈ pre, ∀ v n, ¬ LacksAt s desk l b v n) ∧
      LacksAt s desk l a level area
  | .lineWide => LacksAt s desk .full none level area
  | .unchecked => False

/-- The link can take a request's frame: it is ready, the desk is 0 to 7, a receive buffer is free and the payload has its form (R183,
R184, R192). -/
def Received (s : State) (h : Hdr) : Prop :=
  s.powered = true ∧ s.resetPin = false ∧ s.link.ready = true ∧ h.desk ≤ 7 ∧ s.link.outstanding.length < 4 ∧ h.formed = true

/-- The desk is FULL in all 16 areas, as a line-wide request needs (R176). -/
def LineWide (s : State) (h : Hdr) : Prop := ∀ a, a < 16 → levelIn s.drt.inForce h.desk a = .full

/-- The desk holds a level in some area, as a read of the whole needs (R176). -/
def Somewhere (s : State) (h : Hdr) (l : Level) : Prop := ∃ a, a < 16 ∧ Level.code l ≤ Level.code (levelIn s.drt.inForce h.desk a)

/-- The desk holds a level in the area of a request's target, or is FULL in all areas where the target has none (R176). -/
def InArea (s : State) (h : Hdr) (l : Level) (area : Option Nat) : Prop :=
  (∃ a, area = some a ∧ Level.code l ≤ Level.code (levelIn s.drt.inForce h.desk a)) ∨ (area = none ∧ LineWide s h)

/-- `s` with a received frame discarded: one link error more, LINK_ERROR pending, and the receiver hunting, to which the bytes received of
the frame come once more (R183). -/
def discarded (s : State) : State :=
  report .linkError { s with
    rxd := s.link.frame.map (.byte 0) ++ s.rxd
    link := { s.link with errors := min 65535 (s.link.errors + 1), receiver := .hunting, gapCycles := 0, frame := [] } }

/-- `s` with a request's frame taken and its reply behind the replies outstanding (R183, R184). -/
def replied (h : Hdr) (r : Reply) (s : State) : State :=
  { s with link := { s.link with
      receiver := .hunting, gapCycles := 0, frame := [], outstanding := s.link.outstanding ++ [{ tag := h.tag, reply := r, part := 0 }] } }

/-! ## What commands leave alone -/

/-- What no act of the blocks on one another changes: supply and pins, the clock, the line description, the rights, the settings of every
block, the queue of commands, and the link but for what joins the outbound queue and for the attention slot. -/
structure Settled (s t : State) : Prop where
  powered : t.powered = s.powered
  resetPin : t.resetPin = s.resetPin
  tripPins : t.tripPins = s.tripPins
  rxd : t.rxd = s.rxd
  clock : t.clock = s.clock
  lds : t.lds = s.lds
  drt : t.drt = s.drt
  pending : t.pending = s.pending
  scrubDue : t.scrubDue = s.scrubDue
  liftDue : t.liftDue = s.liftDue
  freeCount : t.freeCount = s.freeCount
  autoClear : t.atu.autoClear = s.atu.autoClear
  wear : t.store.wear = s.store.wear
  grace : t.trt.grace = s.trt.grace
  params : t.reg.params = s.reg.params
  platformHolds : t.gate.platformHolds = s.gate.platformHolds
  kinds : t.inm.kinds = s.inm.kinds
  templates : t.anc.templates = s.anc.templates
  plans : t.anc.plans = s.anc.plans
  approach : t.anc.approach = s.anc.approach
  scheduled : t.anc.scheduled = s.anc.scheduled
  link : ∃ q f, t.link = { s.link with outbound := s.link.outbound ++ q, slot := f }

/-- Every train is where it was, and none has come or gone. -/
def TrainsStay (s t : State) : Prop := ∀ n, (tget t.trt.trains n).map Train.loc = (tget s.trt.trains n).map Train.loc

/-- What acts of the gate, of traction and of incidents leave alone: where the trains are, the occupancy counts, the zones' feeds, the
headway memories and the last regulations. -/
structure PlacesKept (s t : State) : Prop where
  trains : TrainsStay s t
  occupancy : t.trt.occupancy = s.trt.occupancy
  headways : t.reg.headways = s.reg.headways
  lastRegs : t.reg.lastRegs = s.reg.lastRegs
  zones : t.trc.zones = s.trc.zones

/-- What the Departure Gate and the Traction Controller leave alone among themselves: besides, the store, the incidents and the
announcements. -/
structure BooksKept (s t : State) : Prop where
  places : PlacesKept s t
  store : t.store = s.store
  inm : t.inm = s.inm
  anc : t.anc = s.anc

/-- What reading the store and announcing leave alone: trains, regulation, gate and traction. -/
structure LineKept (s t : State) : Prop where
  trt : t.trt = s.trt
  reg : t.reg = s.reg
  gate : t.gate = s.gate
  trc : t.trc = s.trc

/-- Every train but `n` is where it was, and none has come or gone. -/
def OthersStay (n : Nat) (s t : State) : Prop :=
  ∀ k, k ≠ n → (tget t.trt.trains k).map Train.loc = (tget s.trt.trains k).map Train.loc

/-- A request of train `n` stands in a start list (R96). -/
def Waiting (s : State) (n : Nat) : Prop := ∃ p ∈ s.gate.arbiters, ∃ q ∈ p.2.starts, q.train = n

/-- An order was the first to be queued behind those waiting; with no room it was discarded and LINK_OVERRUN is pending (R187). -/
def Ordered (o : Order) (s t : State) : Prop :=
  if s.link.outbound.length < 96 then (s.link.outbound ++ [o]) <+: t.link.outbound else Category.linkOverrun ∈ t.atu.pending

/-- An order stands in the outbound queue; or it was discarded and LINK_OVERRUN is pending (R187). -/
def Queued (o : Order) (t : State) : Prop := o ∈ t.link.outbound ∨ Category.linkOverrun ∈ t.atu.pending

/-- Categories outside `l` are pending as before. -/
def AttentionBut (l : List Category) (s t : State) : Prop := ∀ c, c ∉ l → (c ∈ t.atu.pending ↔ c ∈ s.atu.pending)

/-- An incident of this source and location is in force, or the raise that would have made it was lost to a full table (R144, R145). -/
def RaisedAt (k : SourceKind) (n : Nat) (loc : IncidentLoc) (t : State) : Prop :=
  (∃ p ∈ t.inm.incidents, p.2.source = { kind := k, number := n } ∧ p.2.loc = loc ∧ p.2.state ≠ .lifted) ∨ t.inm.tableFull = true

/-! ## Outcomes -/

/-- A request is accepted: its reply carries items, what no act of the blocks changes stands as in `u`, and `P` holds of the items and of
the state after it. -/
def Accepts (c : Instr) (h : Hdr) (s u : State) (P : List Item → State → Prop) : Prop :=
  ∃ l t, exec c s = .next t ∧ Settled (replied h (.accept l) u) t ∧ P l t

/-- An event is carried out: what no act of the blocks changes stands as in `u`, and `P` holds of the state after it. -/
def Happens (c : Instr) (s u : State) (P : State → Prop) : Prop := ∃ t, exec c s = .next t ∧ Settled u t ∧ P t

/-- A request is refused with a code and does nothing else. -/
def Refuses (c : Instr) (h : Hdr) (s : State) (code : Code) : Prop := ∃ d, exec c s = .next (replied h (.refuse code d) s)

/-! ## The ranges of a request's fields -/

/-- Every field is in range. -/
def AllIn (l : List Prop) : Prop := ∀ p ∈ l, p

/-- Field `k`, counted from 0 in the order of the list, is out of range, and no field before it is (R9; beyond definitions, log 11). -/
def FirstOut (l : List Prop) (k : Nat) : Prop := ∃ p, l[k]? = some p ∧ ¬ p ∧ ∀ j q, j < k → l[j]? = some q → q

/-- An enumerated byte is one of the listed values (another is RANGE by log 9). -/
def Listed {α : Type} (e : Enum α) : Prop := ∃ a, e = .val a

/-- A number, where one is given and not ANY, is at most `m`. -/
def NumUpTo (m : Nat) (o : OrAny) : Prop := ∀ v, o = .num v → v ≤ m

/-- The fields of TRAIN_ENTER: train, class, stop point and trip (R54, check 1). -/
def enterRanges (n cls p : Nat) (trip : Option Nat) : List Prop :=
  [1 ≤ n ∧ n ≤ 9999, cls ≤ 3, p ≤ 63, ∀ m ∈ trip, 1 ≤ m ∧ m ≤ 65535]

/-- The fields of a station: number, area, approach lead (R2). -/
def stationRanges (n : Nat) (f : StationFields) : List Prop := [n ≤ 31, f.area ≤ 15, f.lead ≤ 1800]

/-- The fields of a stop point: number, station, direction, section, minimum and maximum dwell, headway, profile, next link (R3). -/
def stopRanges (n : Nat) (f : StopFields) : List Prop :=
  [n ≤ 63, f.station ≤ 31, Listed f.direction, f.sect ≤ 23, f.minDwell ≤ 6000, f.minDwell ≤ f.maxDwell ∧ f.maxDwell ≤ 6000,
    300 ≤ f.headway ∧ f.headway ≤ 6000, f.profile ≤ 3, ∀ l ∈ f.nextLink, l ≤ 95]

/-- The fields of a link: number, from and to stop points, section, run times that do not fall (R4; the later of two is named, log 11). -/
def linkRanges (n : Nat) (f : LinkFields) : List Prop :=
  [n ≤ 95, f.fromStop ≤ 63, f.toStop ≤ 63 ∧ f.toStop ≠ f.fromStop, f.sect ≤ 23, 50 ≤ f.run0 ∧ f.run0 ≤ 12000,
    f.run0 ≤ f.run1 ∧ 50 ≤ f.run1 ∧ f.run1 ≤ 12000, f.run1 ≤ f.run2 ∧ 50 ≤ f.run2 ∧ f.run2 ≤ 12000,
    f.run2 ≤ f.run3 ∧ 50 ≤ f.run3 ∧ f.run3 ≤ 12000]

/-- The fields of a section: number, zone, area, tD, tC, tS, energise and isolate timeouts, proving interval, duration and timeout (R5). -/
def sectionRanges (n : Nat) (f : SectionFields) : List Prop :=
  [n ≤ 23, f.zone ≤ 7, f.area ≤ 15, 100 ≤ f.deadTime ∧ f.deadTime ≤ 6000, 300 ≤ f.cycleTime ∧ f.cycleTime ≤ 36000,
    f.settleTime ≤ 600, 10 ≤ f.energiseTimeout ∧ f.energiseTimeout ≤ 600, 10 ≤ f.isolateTimeout ∧ f.isolateTimeout ≤ 600,
    f.provingInterval = 0 ∨ (600 ≤ f.provingInterval ∧ f.provingInterval ≤ 72000), 50 ≤ f.provingDuration ∧ f.provingDuration ≤ 1200,
    f.provingDuration ≤ f.provingTimeout ∧ f.provingTimeout ≤ 3000]

/-- The fields of a zone: number, area, capacities, Vtrip, Ht, Hc, Vdead, compare-only (log 24), start window, release timeout,
starvation limit (R6). -/
def zoneRanges (n : Nat) (f : ZoneFields) : List Prop :=
  [n ≤ 7, f.area ≤ 15, f.normalCap ≤ 255, f.tieCap ≤ 255, f.vtrip ≤ 2000, f.ht ≤ 2000, f.hc ≤ 2000, f.vdead ≤ 2000,
    f.compareOnly = 0 ∨ f.compareOnly = 1, 50 ≤ f.startWindow ∧ f.startWindow ≤ 900, 50 ≤ f.releaseTimeout ∧ f.releaseTimeout ≤ 1200,
    1 ≤ f.starvation ∧ f.starvation ≤ 15]

/-- The fields of a merge: number, stop point, links A and B, separation (R7). -/
def mergeRanges (n : Nat) (f : MergeFields) : List Prop := [n ≤ 3, f.stop ≤ 63, f.linkA ≤ 95, f.linkB ≤ 95, f.separation ≤ 1200]

/-- The fields of a train class: number, start demand (R7). -/
def classRanges (n demand : Nat) : List Prop := [n ≤ 3, 1 ≤ demand ∧ demand ≤ 63]

/-- The fields of SET_TRIP_INPUT: input, qualification time, mode, targets, action, severity (R136). -/
def tripInputRanges (n : Nat) (f : TripInputFields) : List Prop :=
  [n ≤ 15, f.qualTime ≤ 255, Listed f.mode, ∀ x ∈ f.targets, x ≤ 23, Listed f.action, Listed f.severity]

/-- The fields of SET_DETECTION_KIND: kind, handling, severity, action, mode, scope (R138). -/
def detectionKindRanges (k : Nat) (f : DetectionKindFields) : List Prop :=
  [k ≤ 15, Listed f.handling, Listed f.severity, Listed f.action, Listed f.mode, Listed f.scope]

/-- The fields of SET_ESCALATION: channel, kind, filter, period, severity, action, mode (R152). -/
def escalationRanges (c : Nat) (f : EscalationFields) : List Prop :=
  [c ≤ 15, f.kind ≤ 15, NumUpTo 63 f.filter, f.period ≤ 7, Listed f.severity, Listed f.action, Listed f.mode]

/-- The fields of SET_TEMPLATE: number, length, parameter count (R159). -/
def templateRanges (n : Nat) (f : TemplateFields) : List Prop := [n ≤ 255, 10 ≤ f.length ∧ f.length ≤ 1200, f.params ≤ 4]

/-- The fields of SET_ANNOUNCE_PLAN: map entry, source kind and number, minimum severity, opening template, reminder template and interval,
resumed template (R166). -/
def planRanges (n : Nat) (f : PlanFields) : List Prop :=
  [n ≤ 31, Listed f.source, NumUpTo 65535 f.number, Listed f.minSeverity, f.opening ≤ 255, ∀ v ∈ f.reminder, v ≤ 255,
    50 ≤ f.interval ∧ f.interval ≤ 6000, ∀ v ∈ f.resumed, v ≤ 255]

/-- The fields of SET_SCHEDULED: entry, enabled (log 24), day mask (log 27), hour, minute, second, not all three ANY (naming the second,
log 11), mode, stations, template, priority (R170). -/
def scheduledRanges (n : Nat) (f : ScheduledFields) : List Prop :=
  [n ≤ 31, f.enabled = 0 ∨ f.enabled = 1, ∀ d ∈ f.dayMask, d ≤ 6, NumUpTo 23 f.hour, NumUpTo 59 f.minute,
    NumUpTo 59 f.second ∧ ¬ (f.hour = .any ∧ f.minute = .any ∧ f.second = .any), Listed f.mode, ∀ x ∈ f.stations, x ≤ 31,
    f.template ≤ 255, Listed f.priority]

/-- The fields of SET_RIGHTS: a desk but desk 0, and 1 to 16 pairs (log 9) of an area and a level, no area twice (R174). -/
def rightsRanges (desk : Nat) (l : List (Nat × Enum Level)) : List Prop :=
  [1 ≤ desk ∧ desk ≤ 7,
    1 ≤ l.length ∧ l.length ≤ 16 ∧ (∀ q ∈ l, q.1 ≤ 15 ∧ Listed q.2) ∧ (l.map Prod.fst).Nodup]

/-! ## Owed provings (R124, R125, R127, R128) -/

/-- The proving-start test of a section with record `r` finds it empty and settled (R125). -/
def EmptyAndSettled (s : State) (x : Nat) (r : SectRec) : Prop := occupancyOf s x = 0 ∧ ∀ e, r.settle = some e → reached s.now e = true

/-- One more proving owed by section `x`, with fields `f` and record `r` before and `r'` after. -/
structure OwesOneMore (s t : State) (x : Nat) (f : SectionFields) (r r' : SectRec) : Prop where
  /-- R124, R127: the owed provings rise by 1 and stay at 8. -/
  owed : r'.owed = satSucc 8 r.owed
  /-- R125: only a section that is LIVE is tested. -/
  other : r.state ≠ .live → r'.state = r.state
  /-- R125: the section stays LIVE, or its proving starts. -/
  live : r.state = .live → r'.state = .live ∨ (r'.state = .proving ∧ r'.provingOrdered = some f.provingDuration ∧
    r'.timeout = some (later s.now f.provingTimeout) ∧ Queued (.prove x f.provingDuration) t ∧
    (r.owed ≠ 7 → Ordered (.prove x f.provingDuration) s t))
  /-- R125: short of forcing, it starts exactly where no train is in the section or RELEASED toward it and the watch is reached. -/
  starts : r.state = .live → r.owed ≠ 7 → (r'.state = .proving ↔ EmptyAndSettled s x r ∧ releasedToward s x = false)
  /-- R128: at 8 every train standing toward the section holds PROVING, a release is withdrawn with a DEPART_CANCEL and a request too, and
  with the releases gone the proving starts where the section is empty and settled. -/
  forced : r.owed = 7 → TablesCanonical s → RequestsSound s →
    releasedToward t x = false ∧
    (∀ n k, tget s.trt.trains n = some k → k.state ≠ .running → nextSect s k = some x →
      (∃ k', tget t.trt.trains n = some k' ∧ .proving ∈ k'.causes ∧ k'.state ≠ .released) ∧ ¬ Waiting t n ∧
      ∀ p, k.state = .released → k.loc = .stop p → Queued (.departCancel n p) t) ∧
    (r.state = .live → (r'.state = .proving ↔ EmptyAndSettled s x r))

/-- Section record `r` becomes `r'` as its breaker closes: LIVE with no timeout; or PROVING, where a proving is owed and the settle watch is
reached at once (log 37). The watch and, in SERVICE, the proving interval begin (R115, R122, R124, R125). -/
def Closed (s : State) (f : SectionFields) (r r' : SectRec) : Prop :=
  r'.feedback = .closed ∧ r'.lastEnergiseDone = some s.now ∧ r'.settle = some (later s.now f.settleTime) ∧ r'.owed = r.owed ∧
    r'.interval = (if s.lds.lineState = .service ∧ f.provingInterval ≠ 0 then some (later s.now f.provingInterval) else none) ∧
    ((r'.state = .live ∧ r'.timeout = none) ∨
      (r'.state = .proving ∧ r'.timeout = some (later s.now f.provingTimeout) ∧ 1 ≤ r.owed ∧
        reached s.now (later s.now f.settleTime) = true))

/-! ## Checked reads (R44 to R46) -/

/-- The stored bits of an entry hold a double error. -/
def doubleError (e : Entry) : Prop := ∃ p, e.bits = .double p

/-- No entry of the store holds a double error. -/
def NoDoubleError (s : State) : Prop := ∀ r ∈ s.store.trips, ∀ e ∈ r.entries, ¬ doubleError e

/-- An entry as a checked read leaves it: a single error is corrected, and a double error makes it unreadable, its stop point used as
read (R44, R45). -/
def readBack (e : Entry) : Entry :=
  match e.bits with
  | .single => { e with bits := .clean }
  | .double p => { e with bits := .unreadable, coded := { e.coded with stop := p } }
  | .clean | .unreadable => e

/-- The number of single errors in a trip. -/
def singleErrors (r : Trip) : Nat := r.entries.countP (fun e => e.bits = .single)

/-- READ_TRIP gives trip `r` as it stands after every entry has been read and checked: single errors are corrected and counted, with
STORE_WEAR pending where a correction leaves the count at the threshold, and a double error makes the entry unreadable and the trip DAMAGED
and raises INTEGRITY; nothing else changes in the store, and without a double error nowhere but for STORE_WEAR (R44 to R46, R48). -/
def ReadsWhole (c : Instr) (h : Hdr) (s : State) (r : Trip) (first : List Item) : Prop :=
  ∃ r' n, r'.entries = r.entries.map readBack ∧ (r'.damaged = true ↔ r.damaged = true ∨ ∃ e ∈ r.entries, doubleError e) ∧
    r' = { r with entries := r'.entries, damaged := r'.damaged } ∧ n = min 255 (s.store.corrected + singleErrors r) ∧
    Accepts c h s s (fun l t => l = first ++ tripRecordItems r' ∧ LineKept s t ∧
      t.store = { s.store with trips := s.store.trips.map (fun q => if q.number = r.number then r' else q), corrected := n } ∧
      (Category.storeWear ∈ t.atu.pending ↔ Category.storeWear ∈ s.atu.pending ∨ (1 ≤ singleErrors r ∧ s.store.wear ≤ n)) ∧
      ((∃ e ∈ r.entries, doubleError e) → RaisedAt .integrity 0 (.trip r.number) t) ∧
      ((∀ e ∈ r.entries, ¬ doubleError e) → t.inm = s.inm ∧ t.anc = s.anc ∧ AttentionBut [.storeWear] s t))

/-! ## The rows of R37 that read entries -/

/-- The replacement that a RETIME_TRIP from index `start` gives for entry `j`, if it gives one. -/
def givenFor (start : Nat) (reps : List Replacement) (j : Nat) : Option Replacement := if j < start then none else reps[j - start]?

/-- The stop point of entry `j` of a trip with the replacements made: the one given, else the one held (log 17). -/
def retimedStop (start : Nat) (reps : List Replacement) (r : Trip) (j : Nat) : Option Nat :=
  ((givenFor start reps j).map Replacement.stop).or ((r.entries[j]?).map (fun e => e.coded.stop))

/-- Row 5 of R37 for entry `j` of a trip whose entries have been read: a readable entry keeps its stop point; an unreadable one is given a
defined stop point that a link joins to the stop point of each neighbour. -/
def StopFits (s : State) (start : Nat) (reps : List Replacement) (r : Trip) (j : Nat) : Prop :=
  ∀ q e, givenFor start reps j = some q → r.entries[j]? = some e →
    if e.bits = .unreadable then
      thas s.lds.stops q.stop = true ∧
        (∀ p, 1 ≤ j → retimedStop start reps r (j - 1) = some p → (linkBetween s p q.stop).isSome = true) ∧
        (∀ p, retimedStop start reps r (j + 1) = some p → (linkBetween s q.stop p).isSome = true)
    else e.coded.stop = q.stop

/-- The times of a trip with the replacements made, those of unreadable entries that stay left out (R37, row 6). -/
def retimedTimes (start : Nat) (reps : List Replacement) (r : Trip) : List (Nat × Nat × Nat) :=
  (r.entries.mapIdx (fun j e =>
    match givenFor start reps j with
    | some q => entryTimes j (asEntry 0 q)
    | none => if e.bits = .unreadable then [] else entryTimes j e.coded)).flatten

/-- The refusal of a RETIME_TRIP by row 5 or 6 of R37, the rows before having passed: row 5 names the first entry whose stop point does not
fit, and row 6 the first time that falls. The trip is one whose entries have been read. -/
def RefusedByReading (s : State) (start : Nat) (reps : List Replacement) (r : Trip) (e : Reply) : Prop :=
  (∃ j q held, (∀ k < j, StopFits s start reps r k) ∧ ¬ StopFits s start reps r j ∧ givenFor start reps j = some q ∧
    r.entries[j]? = some held ∧
    e = refuseEntry (if held.bits = .unreadable ∧ thas s.lds.stops q.stop = false then .unknown else .range) j 0) ∨
  ((∀ j, StopFits s start reps r j) ∧ ∃ j f, firstFall 0 (retimedTimes start reps r) = some (j, f) ∧ e = refuseEntry .range j f)

/-- RETIME_TRIP takes effect on trip `r`, whose entries have been read: each replacement is written with a fresh check code, the status
kept and the profile of a readable entry kept; DAMAGED is cleared where the whole trip is replaced; the trip takes its place in store order;
and the run state, the train, the next trip and rollover passed stand (R38). -/
def RetimedTrip (start : Nat) (reps : List Replacement) (r t : Trip) : Prop :=
  t = { r with entries := t.entries, damaged := if start = 0 ∧ reps.length = r.entries.length then false else r.damaged } ∧
    t.entries.length = r.entries.length ∧
    ∀ j e, r.entries[j]? = some e →
      (givenFor start reps j = none → t.entries[j]? = some e) ∧
      ∀ q, givenFor start reps j = some q → ∃ p, t.entries[j]? = some { e with bits := .clean, coded := asEntry p q } ∧
        (e.bits ≠ .unreadable → p = e.coded.profile)

/-! ## The rows of R35 and R37 that read no stored entry -/

/-- One check of a request: what is to hold, and the refusal on failure. -/
structure RequestCheck where
  holds : Prop
  refusal : Reply

/-- Row 2 of R35 for the times and the dwells of the entry at index `i` of `n`, field by field (counted as log 11 says): Sa absent in the
first entry and present in every other, Sd absent in the last and present in every other, both within a day; Dmin and Dmax. -/
def scheduleChecks (n i : Nat) (e : EntryFields) : List RequestCheck :=
  [⟨(e.sa = none ↔ i = 0) ∧ ∀ v ∈ e.sa, v ≤ 863999, refuseEntry .range i 1⟩,
    ⟨(e.sd = none ↔ i + 1 = n) ∧ ∀ v ∈ e.sd, v ≤ 863999, refuseEntry .range i 2⟩,
    ⟨e.dmin ≤ 6000, refuseEntry .range i 3⟩,
    ⟨e.dmin ≤ e.dmax ∧ e.dmax ≤ 6000, refuseEntry .range i 4⟩]

/-- The scheduled times of a stop list with the entry and the field of each: Sd of the first entry, Sa and Sd of each middle one, Sa of the
last (R33). -/
def runningTimes (l : List EntryFields) : List (Nat × Nat × Nat) :=
  (l.mapIdx (fun i e => (e.sa.map (fun v => (i, 1, v))).toList ++ (e.sd.map (fun v => (i, 2, v))).toList)).flatten

/-- The checks of R35 in its order, with the code and the detail of each refusal (the details are log 11's; the day mask among the fields of
row 1 is log 27's): row 1 by fields; row 2 by entries and their fields; row 3 by entries; row 4 by neighbouring times, the later one named;
row 5 by neighbouring stop points, the later one named; row 6; row 7 with the limit reached. -/
def loadChecks (s : State) (t : TripFields) : List RequestCheck :=
  [⟨1 ≤ t.number ∧ t.number ≤ 65535, refuseField 0⟩,
    ⟨∀ d ∈ t.dayMask, d < 7, refuseField 1⟩,
    ⟨∀ n ∈ t.next, 1 ≤ n ∧ n ≤ 65535 ∧ n ≠ t.number, refuseField 2⟩,
    ⟨2 ≤ t.entries.length ∧ t.entries.length ≤ 64, refuseField 3⟩] ++
  (t.entries.mapIdx (fun i e => scheduleChecks t.entries.length i e ++ [⟨e.profile ≤ 3, refuseEntry .range i 5⟩])).flatten ++
  t.entries.mapIdx (fun i e => ⟨thas s.lds.stops e.stop = true, refuseEntry .unknown i 0⟩) ++
  ((runningTimes t.entries).zip (runningTimes t.entries).tail).map (fun q =>
    ⟨q.1.2.2 ≤ q.2.2.2, refuseEntry .range q.2.1 q.2.2.1⟩) ++
  (t.entries.zip t.entries.tail).mapIdx (fun i q =>
    ⟨∃ l ∈ s.lds.links, l.2.fromStop = q.1.stop ∧ l.2.toStop = q.2.stop, refuseEntry .range (i + 1) 0⟩) ++
  [⟨∀ r ∈ s.store.trips, r.number ≠ t.number, refuse .conflict⟩,
    ⟨s.store.trips.length < 2048, refuseReason .full 15⟩,
    ⟨(s.store.trips.map (fun r => r.entries.length)).sum + t.entries.length ≤ 32768, refuseReason .full 16⟩]

/-- The checks of rows 2 to 4 of R37 in its order, for trip `r`, with the code and the detail of each refusal (log 11): the list not empty
(log 17) and within the trip; row 2 of R35 for each replacement; and each entry replaced PENDING while the trip is RUNNING. -/
def retimeChecks (start : Nat) (reps : List Replacement) (r : Trip) : List RequestCheck :=
  [⟨reps ≠ [], refuseField 2⟩, ⟨start + reps.length ≤ r.entries.length, refuseField 1⟩] ++
  (reps.mapIdx (fun i q => scheduleChecks r.entries.length (start + i) (asEntry 0 q))).flatten ++
  (List.range reps.length).map (fun i =>
    ⟨r.run = .running → ∀ e ∈ r.entries[start + i]?, e.status = .pending, refuseEntryOnly .state (start + i)⟩)

/-! ## The trip of an entering train (R55) -/

/-- Trip `r` is a candidate for a train that enters at stop point `p`, with `d` the signed difference between the Sd of its first entry and
the service time: it is PLANNED and valid on the service day, its first entry can be read and has the stop point, and `d` does not lie below
minus the assign grace. -/
def Candidate (s : State) (p : Nat) (r : Trip) (d : Int) : Prop :=
  r.run = .planned ∧ s.clock.serviceDay ∈ r.dayMask ∧ -(s.trt.grace : Int) ≤ d ∧ -432000 ≤ d ∧ d ≤ 431999 ∧
    ∃ (e : Entry) (v : Nat), r.entries[0]? = some e ∧ (e.bits = .clean ∨ e.bits = .single) ∧ e.coded.stop = p ∧ e.coded.sd = some v ∧
      (d - ((v : Int) - s.clock.serviceTime)) % 864000 = 0

/-- The candidate with the least difference, the first in store order among equal ones. -/
def Picked (s : State) (p : Nat) (r : Trip) : Prop :=
  ∃ a b d, s.store.trips = a ++ r :: b ∧ Candidate s p r d ∧ (∀ q ∈ a, ∀ c, Candidate s p q c → d < c) ∧
    ∀ q ∈ b, ∀ c, Candidate s p q c → d ≤ c

/-- Trip `q` stands in `t` as the picking leaves it: its first entry read where it is PLANNED and valid on the service day (log 18), else as
it was. -/
def ReadForPick (s t : State) (q : Trip) : Prop :=
  if q.run = .planned ∧ s.clock.serviceDay ∈ q.dayMask then
    ∃ q', findTrip t q.number = some q' ∧ q' = { q with entries := q'.entries, damaged := q'.damaged } ∧
      (∀ j, q'.entries[j]? = (q.entries[j]?).map (fun e => if j = 0 then readBack e else e)) ∧
      (q'.damaged = true ↔ q.damaged = true ∨ ∃ e, q.entries[0]? = some e ∧ doubleError e)
  else findTrip t q.number = some q

/-! ## Arrivals at a trip's entries (R61 to R64) -/

/-- Entry `j` is the first of trip `r` from index `a` on whose stop point, as a checked read gives it, is `p` (R45, R61). -/
def FirstAt (r : Trip) (a p j : Nat) : Prop :=
  a ≤ j ∧ (∃ e, r.entries[j]? = some e ∧ (readBack e).coded.stop = p) ∧
    ∀ x e, a ≤ x → x < j → r.entries[x]? = some e → (readBack e).coded.stop ≠ p

/-- Trip `r` stands in `t` with its entries `a` to `b` read and no others (R44, R45), the status of entry `x` being `status x` of what it
was, and with this run state, train and rollover passed; the rest of its record stands. A double error among the entries read makes it
DAMAGED and raises INTEGRITY. -/
def TripStands (r : Trip) (t : State) (a b : Nat) (status : Nat → EntryStatus → EntryStatus) (run : RunState) (train : Option Nat)
    (rolled : Bool) : Prop :=
  ∃ q, findTrip t r.number = some q ∧
    q = { r with entries := q.entries, damaged := q.damaged, run := run, train := train, rolled := rolled } ∧
    (∀ x, q.entries[x]? =
      (r.entries[x]?).map (fun e => { (if a ≤ x ∧ x ≤ b then readBack e else e) with status := status x e.status })) ∧
    (q.damaged = true ↔ r.damaged = true ∨ ∃ x e, a ≤ x ∧ x ≤ b ∧ r.entries[x]? = some e ∧ doubleError e) ∧
    ((∃ x e, a ≤ x ∧ x ≤ b ∧ r.entries[x]? = some e ∧ doubleError e) → RaisedAt .integrity 0 (.trip r.number) t)

/-- The statuses of a trip's entries when entry `j` is called and those from `a` up to it are passed (R40, R61). -/
def passedUpTo (a j x : Nat) (v : EntryStatus) : EntryStatus := if x = j then .called else if a ≤ x ∧ x < j then .skipped else v

/-- A run ends with these statuses: DONE, or PLANNED with every entry PENDING where a rollover has passed; no train and no rollover passed
are left (R41). -/
def RunEnds (r : Trip) (t : State) (a b : Nat) (status : Nat → EntryStatus → EntryStatus) : Prop :=
  if r.rolled = true then TripStands r t a b (fun _ _ => .pending) .planned none false else TripStands r t a b status .done none false

/-- A next link is a defined link from `p` to `q`, none where there is none (R63, step 4). -/
def LinkTo (s : State) (p q : Nat) : Option Nat → Prop
  | some l => ∃ k ∈ s.lds.links, k.1 = l ∧ k.2.fromStop = p ∧ k.2.toStop = q
  | none => ∀ k ∈ s.lds.links, ¬ (k.2.fromStop = p ∧ k.2.toStop = q)

/-- The next link of a train at stop point `p`, whose entry `j` of trip `r` is there: the link to the stop point of the next entry as read,
none at the last entry (R63, step 4; log 32). -/
def NextOnTrip (s : State) (r : Trip) (j p : Nat) (link : Option Nat) : Prop :=
  match r.entries[j + 1]? with
  | some e => LinkTo s p (readBack e).coded.stop link
  | none => link = none

/-- The reply to an arrival: its case, MISSED_DEPARTURE for a missed departure, then the trip and stop index after it, the dwell order and
its clamp, the clamped indication of the stamp, and the trips ended and joined (R60, R64; the layout is log 10's). -/
def ArrivalReply (t : State) (l : List Item) (missed : Bool) (case : List Item) (clamped : Bool) (p : Nat) (k : Train)
    (ended joined : Option Nat) : Prop :=
  ∃ g, tget t.reg.lastRegs p = some g ∧ l = (if missed then [u8 3] else case) ++ tripItems k.trip ++
    [u16 k.dwell, u8 g.clamp.code, flag clamped] ++ tripNumber ended ++ tripNumber joined

/-- Trip `w` may be joined at stop point `p` by a train whose trip has ended: it is PLANNED and valid on the service day, and the clock is
RUNNING (R64). -/
def Joinable (s : State) (w : Trip) : Prop := w.run = .planned ∧ s.clock.state = .running ∧ s.clock.serviceDay ∈ w.dayMask

/-- Trip `r` has ended at stop point `p`, its last: its next trip is joined at the first entry with the stop point where it may be, and
else the train, with record `k'` after, is unscheduled (R64). -/
structure GoesOn (s t : State) (r : Trip) (n p : Nat) (k' : Train) : Prop where
  joins : ∀ m w y, r.next = some m → findTrip s m = some w → Joinable s w → FirstAt w 0 p y →
    k'.trip = some { trip := m, index := y } ∧ TripStands w t 0 (y + 1) (passedUpTo 0 y) .running (some n) w.rolled ∧
      NextOnTrip s w y p k'.nextLink
  ends : (∀ m w y, r.next = some m → findTrip s m = some w → Joinable s w → ¬ FirstAt w 0 p y) →
    k'.trip = none ∧ k'.nextLink = (tget s.lds.stops p).bind Stop.nextLink
  /-- The next trip is read only where it may be joined, the model's order of R64's conditions (log 51). -/
  next : ∀ m w, r.next = some m → findTrip s m = some w →
    (¬ Joinable s w → findTrip t m = some w) ∧
    (Joinable s w → (∀ y, ¬ FirstAt w 0 p y) → TripStands w t 0 w.entries.length (fun _ v => v) .planned w.train w.rolled)

/-- How the arrival of train `n`, with record `k` before and `k'` after, at stop point `p` meets its trip. -/
structure MeetsTrip (s t : State) (l : List Item) (missed clamped : Bool) (n p : Nat) (k k' : Train) : Prop where
  /-- R61: an unscheduled train gains no trip. -/
  unscheduled : k.trip = none → k'.trip = none ∧ t.store = s.store ∧ k'.nextLink = (tget s.lds.stops p).bind Stop.nextLink ∧
    ArrivalReply t l missed [u8 4] clamped p k' none none
  /-- R61, OFF_TRIP: no entry after the stop index has the stop point; the run ends and the train is unscheduled. -/
  offTrip : ∀ o r, k.trip = some o → findTrip s o.trip = some r → r.run = .running →
    (∀ x e, o.index < x → r.entries[x]? = some e → (readBack e).coded.stop ≠ p) →
    k'.trip = none ∧ RunEnds r t (o.index + 1) r.entries.length (fun _ v => v) ∧
      k'.nextLink = (tget s.lds.stops p).bind Stop.nextLink ∧ ArrivalReply t l missed [u8 2] clamped p k' none none
  /-- R61, NORMAL and SKIPPED: the stop index moves to the first entry that has the stop point, the entries between being passed. -/
  onTrip : ∀ o r j, k.trip = some o → findTrip s o.trip = some r → r.run = .running → FirstAt r (o.index + 1) p j →
    j + 1 < r.entries.length →
    k'.trip = some { trip := o.trip, index := j } ∧
      TripStands r t (o.index + 1) (j + 1) (passedUpTo (o.index + 1) j) .running r.train r.rolled ∧ NextOnTrip s r j p k'.nextLink ∧
      ArrivalReply t l missed (if j = o.index + 1 then [u8 0] else [u8 1, u8 (j - o.index - 1)]) clamped p k' none none
  /-- R61, R64: at the last entry the run ends, and the next trip is joined at its first entry with the stop point where it may be. -/
  atLast : ∀ o r j, k.trip = some o → findTrip s o.trip = some r → r.run = .running → r.next ≠ some o.trip →
    FirstAt r (o.index + 1) p j → j + 1 = r.entries.length →
    RunEnds r t (o.index + 1) j (passedUpTo (o.index + 1) j) ∧ GoesOn s t r n p k' ∧
      ArrivalReply t l missed (if j = o.index + 1 then [u8 0] else [u8 1, u8 (j - o.index - 1)]) clamped p k' (some o.trip)
        (k'.trip.map TripRef.trip)
  /-- No other trip is touched but the next trip of the one ended. -/
  others : ∀ m, (∀ o, k.trip = some o → m ≠ o.trip ∧ ∀ r, findTrip s o.trip = some r → r.next ≠ some m) →
    findTrip t m = findTrip s m

/-- What a missed departure of train `n`, with record `k` before and `k'` after, leaves at the gate when it arrives at stop point `p`: no
request and no GRANTED grant of it but one for `p`, its old grant's units returned, and no DEPART_CANCEL for another stop point (R62). -/
def MissedSettled (s t : State) (n p : Nat) (k k' : Train) : Prop :=
  (∀ b ∈ t.gate.arbiters, ∀ q ∈ b.2.starts, q.train = n → q.stop = p) ∧
    (∀ q, .departCancel n q ∈ t.link.outbound.drop s.link.outbound.length → q = p) ∧
    ∀ g a, k.state = .released → k.grant = some g → tget s.gate.arbiters g.zone = some a →
      ∃ b, tget t.gate.arbiters g.zone = some b ∧ (∀ q ∈ b.grants, q.train = n → q.startedAt = none → q.stop = p) ∧
        (k'.state ≠ .released → ∀ q ∈ b.grants, q.train = n → q.startedAt ≠ none) ∧
        (UnitsBalance s → b.inUse = (b.grants.map Grant.units).sum)

/-! ## The entry of a raise (R144) -/

/-- Section `x` is among those of stop point `p` under a target scope: its own section, or that of some stop point of its station (R138). -/
def InScope (s : State) (p x : Nat) : Scope → Prop
  | .stopSection => x < 24 ∧ ∃ q, tget s.lds.stops p = some q ∧ q.sect = x
  | .station => x < 24 ∧ ∃ q w u, tget s.lds.stops p = some q ∧ tget s.lds.stops w = some u ∧ u.station = q.station ∧ u.sect = x

/-- What a raise leaves as entry `n`, where `targets` are the sections it names: a new ACTIVE entry with all the raise gives; or the entry
for the same source and place with one recurrence more, the graver severity, the stronger action, the targets joined, its mode kept, the
condition of either, and ACTIVE and unacknowledged where it was LIFTED (R142, R144). -/
def EntryRaised (s t : State) (src : Source) (loc : IncidentLoc) (v : Severity) (a : Action) (targets : Nat → Prop) (mode : Mode)
    (condition : Bool) (n : Nat) : Prop :=
  match findIncident s.inm.incidents src loc with
  | none => tget s.inm.incidents n = none ∧ ∃ l : List Nat, (∀ x, x ∈ l ↔ targets x) ∧ (n,
      { source := src, loc := loc, severity := v, action := a, targets := l, mode := mode, condition := condition, state := .active,
        ack := none, raised := s.now, recurrences := 0 }) ∈ t.inm.incidents
  | some (m, i) => m = n ∧ ∃ l : List Nat, (∀ x, x ∈ l ↔ x < 24 ∧ (x ∈ i.targets ∨ targets x)) ∧ (n,
      { i with
        recurrences := satSucc 255 i.recurrences, severity := graver i.severity v, action := stronger i.action a, targets := l
        condition := i.condition || condition
        state := if i.state = .lifted then .active else i.state
        ack := if i.state = .lifted then none else i.ack }) ∈ t.inm.incidents

/-- A raise makes or merges its entry; or, where the table holds no entry for it and is full, it is lost and sets the table-full indication
(R144, R145). -/
def Raises (s t : State) (src : Source) (loc : IncidentLoc) (v : Severity) (a : Action) (targets : Nat → Prop) (mode : Mode)
    (condition : Bool) : Prop :=
  if findIncident s.inm.incidents src loc = none ∧ 32 ≤ s.inm.incidents.length then
    t.inm.tableFull = true ∧ t.inm.incidents = s.inm.incidents
  else ∃ n, EntryRaised s t src loc v a targets mode condition n

/-- The incident table is as it was but for what checked reads find: a double error adds to the INTEGRITY entry of its trip, where there is
one, and no other entry is made, changed or removed (R44, R45, R144, R145, with the table full). -/
def TableStandsButReads (s t : State) : Prop :=
  tkeys t.inm.incidents = tkeys s.inm.incidents ∧
    (∀ n i, i.source.kind ≠ .integrity → (tget t.inm.incidents n = some i ↔ tget s.inm.incidents n = some i)) ∧
    (NoDoubleError s → t.inm.incidents = s.inm.incidents)

/-- The raise of trip input `n` with captured settings `c`: it makes or merges its entry; or, where the table holds no entry for it and is
full, it is lost, sets the table-full indication and makes none. Its action acts even then, so a profile that is recomputed may read the
store (R82, R83, R137, R145). -/
def InputRaises (s t : State) (n : Nat) (c : Captured) : Prop :=
  if findIncident s.inm.incidents { kind := .trip, number := n } .none = none ∧ 32 ≤ s.inm.incidents.length then
    t.inm.tableFull = true ∧ TableStandsButReads s t
  else ∃ m, EntryRaised s t { kind := .trip, number := n } .none c.severity c.action (· ∈ c.targets) c.mode true m

/-- Each of some sections that has an effective action has one at least as strong as `a` after (R149). -/
def ActedOn (s t : State) (l : List Nat) (a : Action) : Prop :=
  ∀ x ∈ l, x < 24 → thas s.inm.effective x = true → ∃ b, tget t.inm.effective x = some b ∧ Action.code b ≤ Action.code a

/-- The raise of an internal source, with the severity, action, mode and condition that the table of R140 gives it. -/
def RaisesOf (s t : State) (k : SourceKind) (loc : IncidentLoc) (targets : Nat → Prop) : Prop :=
  match k with
  | .sectionFault | .provingLow => Raises s t { kind := k, number := 0 } loc .major .hold targets .latched false
  | .feedLost => Raises s t { kind := k, number := 0 } loc .major .hold targets .perCycle true
  | .provingTimeout | .unreleasedDeparture => Raises s t { kind := k, number := 0 } loc .minor .none targets .perCycle false
  | .integrity => Raises s t { kind := k, number := 0 } loc .minor .none targets .latched false
  | .trip | .detection | .escalation | .desk => False

/-! ## Incident numbers (R143) -/

/-- The number after `n`: after 65535 it wraps to 1. -/
def numberAfter (n : Nat) : Nat := if 65535 ≤ n then 1 else n + 1

/-- The `k`-th number after `n`. -/
def numberOn (n : Nat) : Nat → Nat
  | 0 => n
  | k + 1 => numberAfter (numberOn n k)

/-- The number given to a new entry: the first from the next number on that no entry holds. -/
def NumberGiven (s : State) (n : Nat) : Prop :=
  tget s.inm.incidents n = none ∧
    ∃ k, n = numberOn s.inm.nextNumber k ∧ ∀ j < k, tget s.inm.incidents (numberOn s.inm.nextNumber j) ≠ none

/-! ## Removal of an entry (R147, R154) -/

/-- A trip input waits for an entry: in force without one, its settings captured (R137). -/
def awaitsEntry (k : TripInput) : Bool := k.inForce && k.entry.isNone && k.captured.isSome

/-- A channel raises again at the removal of entry `n` if there is room: its period is at least 1, its count is at the period, and it has
no open incident once that entry is gone (R147, R154). -/
def raisesAgain (n : Nat) (ch : Channel) : Bool :=
  1 ≤ ch.period && ch.count = ch.period && (ch.openIncident = none || ch.openIncident = some n) && ch.lastStop.isSome

/-- How many of the trip inputs below `m` wait for an entry. -/
def inputsWaiting (s : State) (m : Nat) : Nat := (List.range m).countP (fun j => (s.inm.inputs[j]?).any awaitsEntry)

/-- How many of the channels below `c` raise again at the removal of entry `n`. -/
def channelsRaising (s : State) (n c : Nat) : Nat := (List.range c).countP (fun j => (s.inm.channels[j]?).any (raisesAgain n))

/-- `s` without entry `n` of the incident table. -/
def withoutEntry (n : Nat) (s : State) : State := { s with inm := { s.inm with incidents := tdel s.inm.incidents n } }

/-- What the removal of entry `n`, which was `i`, leaves of the trip inputs and the channels, in a table with no other room than it finds:
the new entries are made in rising number, of the trip inputs first. -/
structure EntryRemoved (s t : State) (n : Nat) (i : Incident) : Prop where
  /-- R147, step 2: the trip input of the entry has none and is not in force. -/
  ofInput : ∀ (m : Nat) k, i.source.kind = .trip → i.source.number = m → s.inm.inputs[m]? = some k →
    t.inm.inputs[m]? = some { k with entry := none, inForce := false }
  /-- R147, step 4: a trip input waiting is given an entry while there is room, with its captured settings. -/
  given : ∀ (m : Nat) k c, ¬ (i.source.kind = .trip ∧ i.source.number = m) → s.inm.inputs[m]? = some k → awaitsEntry k = true →
    k.captured = some c → s.inm.incidents.length + inputsWaiting s m ≤ 32 →
    ∃ e, t.inm.inputs[m]? = some { k with entry := some e } ∧
      EntryRaised (withoutEntry n s) t { kind := .trip, number := m } .none c.severity c.action (· ∈ c.targets) c.mode
        (decide (k.qual = .active)) e
  /-- The other trip inputs stay as they are, and so do those for which there is no room. -/
  inputs : ∀ (m : Nat) k, ¬ (i.source.kind = .trip ∧ i.source.number = m) → s.inm.inputs[m]? = some k →
    awaitsEntry k = false ∨ 32 < s.inm.incidents.length + inputsWaiting s m → t.inm.inputs[m]? = some k
  /-- R147, step 3: a channel whose open incident it was has none; with no room, or none to raise, that is all. -/
  channels : ∀ (c : Nat) ch, s.inm.channels[c]? = some ch →
    raisesAgain n ch = false ∨ 32 < s.inm.incidents.length + inputsWaiting s 16 →
    t.inm.channels[c]? = some { ch with openIncident := if ch.openIncident = some n then none else ch.openIncident }
  /-- R147, step 5, and R154: a channel at its period raises again at its last stop point while there is room, and counts from 0. -/
  again : ∀ (c : Nat) ch p d, s.inm.channels[c]? = some ch → raisesAgain n ch = true → ch.lastStop = some p → s.inm.kinds[ch.kind]? = some d →
    s.inm.incidents.length + inputsWaiting s 16 + channelsRaising s n c ≤ 32 →
    ∃ e, t.inm.channels[c]? = some { ch with openIncident := some e, count := 0 } ∧
      EntryRaised (withoutEntry n s) t { kind := .escalation, number := c } (.stop p) ch.severity ch.action
        (fun x => InScope s p x d.scope) ch.mode false e

/-! ## The topology checks (R12) -/

/-- One check of the topology: the kind and number of the object it takes, what is to hold, and the reason on failure. -/
structure TopologyCheck where
  kind : Nat
  number : Nat
  holds : Prop
  reason : Nat

/-- The checks of R12 in its order, but for the one that a stop point is defined: the groups in the table's order, each object in rising
number, each object's checks in the table's order. -/
def topologyChecks (l : Lds) : List TopologyCheck :=
  l.stops.flatMap (fun q =>
    [⟨1, q.1, thas l.stations q.2.station = true, 1⟩, ⟨1, q.1, thas l.sections q.2.sect = true, 2⟩]) ++
  l.links.flatMap (fun q =>
    [⟨2, q.1, thas l.stops q.2.fromStop = true, 3⟩, ⟨2, q.1, thas l.stops q.2.toStop = true, 4⟩,
      ⟨2, q.1, thas l.sections q.2.sect = true, 2⟩,
      ⟨2, q.1, ∀ a b, tget l.stops q.2.fromStop = some a → tget l.stops q.2.toStop = some b →
        a.direction = b.direction ∨ a.station = b.station, 5⟩,
      ⟨2, q.1, ∀ o ∈ l.links, o.1 < q.1 → ¬ (o.2.fromStop = q.2.fromStop ∧ o.2.toStop = q.2.toStop), 6⟩]) ++
  l.sections.map (fun q => ⟨3, q.1, thas l.zones q.2.zone = true, 7⟩) ++
  l.merges.flatMap (fun q =>
    [⟨5, q.1, thas l.stops q.2.stop = true, 8⟩,
      ⟨5, q.1, thas l.links q.2.linkA = true ∧ thas l.links q.2.linkB = true, 9⟩,
      ⟨5, q.1, ∀ k, tget l.links q.2.linkA = some k ∨ tget l.links q.2.linkB = some k → k.toStop = q.2.stop, 10⟩,
      ⟨5, q.1, ∀ a b, tget l.links q.2.linkA = some a → tget l.links q.2.linkB = some b → a.fromStop ≠ b.fromStop, 11⟩,
      ⟨5, q.1, ∀ o ∈ l.merges, o.1 < q.1 → o.2.stop ≠ q.2.stop, 12⟩]) ++
  l.stops.flatMap (fun q =>
    [⟨1, q.1, ∀ j, q.2.nextLink = some j → thas l.links j = true, 9⟩,
      ⟨1, q.1, ∀ j k, q.2.nextLink = some j → tget l.links j = some k → k.fromStop = q.1, 13⟩])

/-! ## Time stamps (R59) -/

/-- The moment of a report with an optional time stamp: without one, or while the clock is UNSET, its receipt; else the stamp, its
signed difference from the service time at receipt clamped into -600 to 0, with the clamped indication (R59). -/
structure StampGives (s : State) (stamp : Option Nat) (svc : Option Nat) (count : Count) (clamped : Bool) : Prop where
  unset : s.clock.state = .unset → svc = none ∧ count = s.clock.runningCount ∧ clamped = false
  absent : s.clock.state = .running → stamp = none →
    svc = some s.clock.serviceTime ∧ count = s.clock.runningCount ∧ clamped = false
  given : s.clock.state = .running → ∀ v, stamp = some v → ∀ d c : Int,
    -432000 ≤ d → d ≤ 431999 → (d - ((v : Int) - s.clock.serviceTime)) % 864000 = 0 → c = max (-600) (min 0 d) →
    svc = some (((s.clock.serviceTime : Int) + c) % 864000).toNat ∧ count = s.clock.runningCount + BitVec.ofInt 32 c ∧
      (clamped = true ↔ d < -600 ∨ 0 < d)

/-! ## Kinds of command -/

/-- The requests that R10 lets through only in SETUP. -/
def setupOnly : Instr → Bool
  | .defineStation _ _ _ | .defineStop _ _ _ | .defineLink _ _ _ | .defineSection _ _ _ | .defineZone _ _ _ | .defineMerge _ _ _
  | .defineClass _ _ _ | .startService _ => true
  | _ => false

/-- The requests that are let through only in SERVICE (R10; R89, R109, R155, R172). -/
def serviceOnly : Instr → Bool
  | .stopService _ | .trainEnter _ _ _ _ _ | .arrival _ _ _ _ | .departure _ _ _ _ | .trainLeave _ _ | .assignTrip _ _ _
  | .setDwell _ _ _ | .holdTrain _ _ | .releaseTrain _ _ | .holdPlatform _ _ | .releasePlatform _ _ | .announce _ _ _ _ _ _
  | .cancelAnnounce _ _ _ | .detection _ _ _ _ | .raiseIncident _ _ _ _ _ | .testDetection _ _ _ | .readRegulationStop _ _
  | .readRegulationMerge _ _ | .readGateZone _ _ | .readGatePlatforms _ | .readAnnounceStation _ _ => true
  | _ => false

/-- The object number of a SET_PARAM code of 0 to 28 is that of a defined object of the code's kind (R190). -/
def paramObject (s : State) (code n : Nat) : Bool :=
  if code = 0 then thas s.lds.stations n
  else if code ≤ 4 then thas s.lds.stops n
  else if code ≤ 8 then thas s.lds.links n
  else if code ≤ 16 then thas s.lds.sections n
  else if code ≤ 26 then thas s.lds.zones n
  else if code = 27 then thas s.lds.merges n
  else thas s.lds.classes n

/-- A value is in the range of the parameter of a code of 0 to 28 (R2 to R7, R190). -/
def paramRange (code : Nat) (v : Int) : Bool :=
  if code = 0 then 0 ≤ v && v ≤ 1800
  else if code ≤ 2 then 0 ≤ v && v ≤ 6000
  else if code = 3 then 300 ≤ v && v ≤ 6000
  else if code = 4 then 0 ≤ v && v ≤ 3
  else if code ≤ 8 then 50 ≤ v && v ≤ 12000
  else if code = 9 then 100 ≤ v && v ≤ 6000
  else if code = 10 then 300 ≤ v && v ≤ 36000
  else if code = 11 then 0 ≤ v && v ≤ 600
  else if code ≤ 13 then 10 ≤ v && v ≤ 600
  else if code = 14 then v = 0 || (600 ≤ v && v ≤ 72000)
  else if code = 15 then 50 ≤ v && v ≤ 1200
  else if code = 16 then 50 ≤ v && v ≤ 3000
  else if code ≤ 18 then 0 ≤ v && v ≤ 255
  else if code ≤ 22 then 0 ≤ v && v ≤ 2000
  else if code = 23 then 0 ≤ v && v ≤ 1
  else if code = 24 then 50 ≤ v && v ≤ 900
  else if code = 25 then 50 ≤ v && v ≤ 1200
  else if code = 26 then 1 ≤ v && v ≤ 15
  else if code = 27 then 0 ≤ v && v ≤ 1200
  else 1 ≤ v && v ≤ 63

/-- The section of a traction command (R113). -/
def tractionOf : Instr → Option Nat
  | .energise _ x | .isolate _ x | .isolateOnClear _ x | .earth _ x | .unearth _ x | .proveNow _ x => some x
  | _ => none

/-- Supply and the RESET input (R193). -/
def supplyOrReset : Instr → Bool
  | .powerOn | .supplyLoss | .resetAsserted | .resetReleased => true
  | _ => false

/-- What a traction statement is about: a request that is received, in OPERATE or FULL rights over its section, which is defined, in
a defined zone or in SERVICE. -/
def OnSection (s : State) (h : Hdr) (l : Level) (x : Nat) (f : SectionFields) (r : SectRec) : Prop :=
  Received s h ∧ InArea s h l (sectArea s x) ∧ x < 24 ∧ tget s.lds.sections x = some f ∧ tget s.trc.sections x = some r ∧
    (s.lds.lineState = .service ∨ thas s.lds.zones f.zone = true)

/-! ## Start -/

/-- The trip inputs as power-on or the release of RESET leaves them: the ones then active are QUALIFYING with the qualification time of
10 ms (R135, R136, R157). -/
def startInputs (on : Bool) (pins : Vector Bool 16) : Vector TripInput 16 :=
  pins.map (fun p => if on && p then { TripInput.init with qual := .qualifying, qualLimit := 100000 } else TripInput.init)

/-- The part at its RESET values with its clock kept: CLOCK_UNSET is pending exactly while the clock is UNSET (R31, R181, R192). -/
def resetKeeping (s : State) : State :=
  let p := if s.clock.state = .unset then [Category.clockUnset] else []
  { State.reset with
    powered := s.powered, resetPin := s.resetPin, tripPins := s.tripPins, rxd := s.rxd, clock := s.clock, freeCount := s.freeCount
    pending := s.pending
    atu := { pending := p, autoClear := false, announced := p.head? }
    link := Link.init p.head? p }

end Sys2Proof.Safety
end

