-- ==== Sys2Proof/Certificates/Slice0/Obligations.lean ====
section
/-! DEFINITION. The statements about the part, for the provers: the queue of commands, the link, and then block by block what the commands
do, with what they leave alone; last the invariants that every step keeps and the rules over all commands. -/

open Sys2Proof Sys2Proof.Machine Sys2Proof.Safety

/-! ## The queue of commands -/

/-- A step takes the command at the front of the queue and carries it out with the queue's rest (the model's queue, log 1). -/
def Obligations.StepTakesFront : Prop :=
  ∀ (c : Instr) (rest : List Instr) (s : State), step { s with pending := c :: rest } = exec c { s with pending := rest }

/-! ## What every request meets first (R183 to R185, R176, R177, R10) -/

/-- R183, R184: whatever its kind, a request whose desk is above 7, or that finds 4 requests outstanding, is discarded as a link error; one
whose payload has not the form its kind needs is answered REFUSE with FORMAT. Nothing else changes. How the bytes received of a discarded
frame come to the hunting receiver again is the model's (log 8). -/
def Obligations.UnreadableFrames : Prop :=
  ∀ (c : Instr) (h : Hdr) (s : State), header? c = some h → s.linkUp = true →
    (s.link.errors ≤ 65535 → 7 < h.desk ∨ 4 ≤ s.link.outstanding.length →
      exec c s = .next (discarded s)) ∧
    (h.desk ≤ 7 → s.link.outstanding.length < 4 → h.formed = false →
      exec c s = .next (replied h (.refuse .format Detail.empty) s))

/-- R176, R177, R190: a request of a desk that lacks what the table of R176 asks of it is refused with RIGHTS, naming the level and the area
lacking, with its kind, the level, the area and the moment recorded and RIGHTS_REFUSAL reported; a desk with no level in any area lacks it
for every request but ANNOUNCE and CANCEL_ANNOUNCE, which the Announcement Controller checks; an object number present or absent against the
parameter code or kind is refused with FORMAT. Nothing else changes. That an object number of READ_LINE present or absent against its kind
is a matter of form is the model's reading (log 9), and so is that the ten rows of a parameter of the line as a whole record the kind
SET_PARAM (log 30). -/
def Obligations.RightsChecked : Prop :=
  ∀ (c : Instr) (h : Hdr) (s : State) (k : ReqKind), header? c = some h → kindOf? c = some k → Received s h →
    (presenceAgrees c = false → exec c s = .next (replied h (.refuse .format Detail.empty) s)) ∧
    (presenceAgrees c = true → ∀ level area, Lacks s h.desk level area (neededBy s c) →
      exec c s = .next (replied h (.refuse .rights { Detail.empty with rights := some (level, area) })
        (report .rightsRefusal
          { s with
            drt :=
              { s.drt with
                lastRefusal := some
                  { desk := h.desk, kind := k, area := area, level := level, count := s.clock.runningCount,
                    time := if s.clock.state = .running then some (s.clock.timeOfDay, s.clock.dayOfWeek) else none } } }))) ∧
    ((∀ a, a < 16 → levelIn s.drt.inForce h.desk a = .none) → k ≠ .announce → k ≠ .cancelAnnounce →
      ∃ level area, Level.none ≠ level ∧ Lacks s h.desk level area (neededBy s c))

/-- R10, R89, R109, R155, R172: a desk that is FULL everywhere is refused with STATE for a definition or START_SERVICE in SERVICE, for a
request of the line in operation and a read of what only SERVICE holds in SETUP, and with TOPOLOGY for a traction command in SETUP on a
section whose zone is not defined; nothing else changes. Every area is one of the 16, as every step keeps it (RangesKept). That STATE comes
before UNKNOWN and RANGE is the model's (log 13). -/
def Obligations.LineStateDecides : Prop :=
  ∀ (c : Instr) (h : Hdr) (s : State), header? c = some h → Received s h → LineWide s h → AreasInRange s →
    (s.lds.lineState = .service → setupOnly c = true → Refuses c h s .state) ∧
    (s.lds.lineState = .setup → serviceOnly c = true → Refuses c h s .state) ∧
    (s.lds.lineState = .setup → ∀ x f r, tractionOf c = some x → x < 24 → tget s.lds.sections x = some f →
      tget s.trc.sections x = some r → tget s.lds.zones f.zone = none →
      exec c s = .next (replied h (.refuse .topology { Detail.empty with object := some (3, some x) }) s))

/-! ## Supply and RESET (R16, R31, R157, R181, R192, R193) -/

/-- Power-on leaves the part as after power-on, its inputs' levels kept and the active ones qualifying; RESET leaves every block but the
Line Clock so; its release does so and lets the active inputs qualify; loss of supply keeps nothing. What power-on does to a running part
is the model's (log 4). -/
def Obligations.PowerAndReset : Prop :=
  ∀ s : State,
    exec .powerOn s = .next { State.reset with
      resetPin := s.resetPin, tripPins := s.tripPins, rxd := s.rxd, freeCount := s.freeCount, pending := s.pending,
      inm := { Inm.init with inputs := startInputs (!s.resetPin) s.tripPins } } ∧
    exec .supplyLoss s = .next { State.reset with
      powered := false, resetPin := s.resetPin, tripPins := s.tripPins, rxd := s.rxd, freeCount := s.freeCount, pending := s.pending } ∧
    (s.powered = true → exec .resetAsserted s = .next (resetKeeping { s with resetPin := true })) ∧
    (s.powered = true → s.resetPin = true → exec .resetReleased s = .next { resetKeeping { s with resetPin := false } with
      inm := { Inm.init with inputs := startInputs true s.tripPins } }) ∧
    (s.powered = false → exec .resetAsserted s = .next { s with resetPin := true }) ∧
    (s.powered = false ∨ s.resetPin = false → exec .resetReleased s = .next { s with resetPin := false })

/-- R16: power-on and RESET leave the line description empty in SETUP, with no train, arbiter, channel or order; RESTART leaves it, the
values set on it and the line state as they were, and checks nothing. -/
def Obligations.DescriptionAfterResets : Prop :=
  ∀ s : State,
    (∀ c, c = .powerOn ∨ (c = .resetAsserted ∧ s.powered = true) →
      ∃ t, exec c s = .next t ∧ t.lds = Lds.mk .setup [] [] [] [] [] [] [] ∧
        t.trt.trains = [] ∧ t.gate.arbiters = [] ∧ t.anc.channels = [] ∧ t.link.outbound = []) ∧
    ∀ h, Received s h → LineWide s h →
      ∃ t l, exec (.restart h) s = .next t ∧ t.lds = s.lds ∧
        t.link.outstanding = s.link.outstanding ++ [{ tag := h.tag, reply := .accept l, part := 0 }]

/-- R31: power-on starts the clock record afresh; RESET and RESTART leave it as it was, make no rollover or step and fire no scheduled
entry; a tick is counted under RESET too; and after RESET CLOCK_UNSET is pending only if the clock is UNSET. -/
def Obligations.ClockAfterResets : Prop :=
  ∀ s : State,
    (∃ t, exec .powerOn s = .next t ∧ t.clock =
      { state := .unset, timeOfDay := 0, dayOfWeek := 0, trim := 0, slew := 0, runningCount := 0, ticked := false, cycleCount := 0,
        serviceOrigin := 3, serviceDay := 0 }) ∧
    (s.powered = true →
      (∃ t, exec .resetAsserted s = .next t ∧ t.clock = s.clock ∧ (Category.clockUnset ∈ t.atu.pending ↔ s.clock.state = .unset)) ∧
      ∀ flips, s.resetPin = true → ∃ t, exec (.tick flips) s = .next t ∧ t.clock.runningCount = s.clock.runningCount + 1) ∧
    ∀ h, Received s h → LineWide s h →
      ∃ t, exec (.restart h) s = .next t ∧ t.clock = s.clock ∧ t.anc.scheduled = s.anc.scheduled

/-! ## The control link (R182 to R186, R192) -/

/-- R182, R183, R184, R189, R192: the events of the receiver, each with all it changes: a discard brings the bytes received of the frame to
the hunting receiver again, after a gap with the mark of the gap behind them (log 8); and what a byte on RXD comes to while it hunts and
within a frame, judged on the bytes received: the command that stands for what is found is put in the queue (log 8). -/
def Obligations.LinkEvents : Prop :=
  ∀ s : State, s.link.errors ≤ 65535 →
    (s.powered = true → s.resetPin = false → s.link.ready = false → ∀ f, s.link.slot = some f →
      exec .linkReady s = .next { s with link := { s.link with
        ready := true, waitCycles := 0, receiver := .hunting, gapCycles := 0, frame := [], slot := none, sending := some (.attention f),
        sentCycles := 0 } }) ∧
    (s.linkUp = true →
      (s.link.receiver = .hunting →
        exec .frameStart s = .next { s with link := { s.link with receiver := .inFrame, gapCycles := 0, frame := [] } }) ∧
      (s.link.receiver = .inFrame →
        exec .byteGapTimeout s =
          .next (discarded (if s.link.frame = [] then s else { s with rxd := .gap :: s.rxd }))) ∧
      (∀ cause, cause ≠ .noBuffer ∨ 4 ≤ s.link.outstanding.length → exec (.linkErrorDiscard cause) s = .next (discarded s)) ∧
      (∀ tag desk kind, isRequestKind kind = false →
        (desk ≤ 7 → s.link.outstanding.length < 4 → exec (.kindRefusal tag desk kind) s =
          .next (replied { tag := tag, desk := desk, formed := true } (.refuse .kind Detail.empty) s)) ∧
        (7 < desk ∨ 4 ≤ s.link.outstanding.length → exec (.kindRefusal tag desk kind) s = .next (discarded s))) ∧
      (s.pending = [] → firstDue s = none →
        (∀ rest, s.rxd = .gap :: rest → step s = .next { s with
          rxd := rest, pending := if s.link.receiver = .inFrame then [.byteGapTimeout] else [] }) ∧
        ∀ b rest, s.rxd = .byte 0 b :: rest →
          (s.link.receiver = .hunting →
            step s = .next { s with rxd := rest, pending := if b.value = 0x5A#8 ∧ b.low = false then [.frameStart] else [] }) ∧
          (s.link.receiver = .inFrame → (∀ y ∈ s.link.frame, y.low = false) → ∀ (l : List RxByte) (t : List Instr → State),
            l = s.link.frame ++ [b] →
            t = (fun found => { s with rxd := rest, pending := found, link := { s.link with gapCycles := 0, frame := l } }) →
            (b.low = true → judgeFrame (s.link.frame.map RxByte.value) = .incomplete →
              step s = .next (t [.linkErrorDiscard .lowStopBit])) ∧
            (b.low = false →
              (judgeFrame (l.map RxByte.value) = .incomplete → step s = .next (t [])) ∧
              (∀ cause, judgeFrame (l.map RxByte.value) = .discard cause → step s = .next (t [.linkErrorDiscard cause])) ∧
              ∀ kind tag desk payload, judgeFrame (l.map RxByte.value) = .wellFormed kind tag desk payload →
                step s = .next (t (commandOf (l.map RxByte.value)).toList)))))

/-- R184 to R186: a free transmitter takes the next part of the oldest reply, then the attention slot, then the oldest order; a part sent
makes way for the next, and a last part frees its buffer. -/
def Obligations.Transmits : Prop :=
  ∀ s : State,
    (s.linkUp = true → s.link.sending = none →
      (∀ o rest, s.link.outstanding = o :: rest →
        exec .transmitNextFrame s =
          .next { s with link := { s.link with sending := some (.reply o.tag o.reply o.part), sentCycles := 0 } }) ∧
      (s.link.outstanding = [] → ∀ f, s.link.slot = some f →
        exec .transmitNextFrame s =
          .next { s with link := { s.link with sending := some (.attention f), sentCycles := 0, slot := none } }) ∧
      (s.link.outstanding = [] → s.link.slot = none → ∀ o rest, s.link.outbound = o :: rest →
        exec .transmitNextFrame s =
          .next { s with link := { s.link with sending := some (.order o), sentCycles := 0, outbound := rest } }) ∧
      (s.link.outstanding = [] → s.link.slot = none → s.link.outbound = [] → exec .transmitNextFrame s = .next s)) ∧
    (s.powered = true → s.resetPin = false →
      (∀ tag r k o rest, s.link.sending = some (.reply tag r k) → s.link.outstanding = o :: rest →
        exec .frameSent s = .next { s with link := { s.link with
          sending := none, sentCycles := 0
          outstanding := if o.part + 1 < replyParts o.reply then { o with part := o.part + 1 } :: rest else rest } }) ∧
      (∀ f, s.link.sending = some f → (∀ tag r k, f ≠ .reply tag r k) →
        exec .frameSent s = .next { s with link := { s.link with sending := none, sentCycles := 0 } }))

/-! ## Line Clock (R19 to R30) -/

/-- R19, R20, R21, R23, R25, R27, R47, R146, R171: with no command waiting and nothing due (log 1), the next edge of the reference clock is
a tick when the count with it has come to the tick length or is past it, and else a count of one that changes no block. What a tick does to
the clock, to the store at a rollover, to the scheduled entries that a second event fires, and to the scrub and the lifting, due at a
running count that is a multiple of 10 (log 20); and what it leaves alone. The disturbances of the store are the model's (log 5). -/
def Obligations.Ticks : Prop :=
  (∀ s : State, s.pending = [] → s.powered = true → firstDue s = none → itemDue s = false →
    (1000000 - s.clock.trim ≤ (s.clock.cycleCount : Int) + 1 → step s = exec (.tick []) (countEdge s)) ∧
    ((s.clock.cycleCount : Int) + 1 < 1000000 - s.clock.trim → step s = .next (countEdge s)) ∧
    ∀ t, t = countEdge s → t.clock = { s.clock with cycleCount := s.clock.cycleCount + 1 } ∧ t.lds = s.lds ∧ t.store = s.store ∧
      t.trt = s.trt ∧ t.reg = s.reg ∧ t.gate = s.gate ∧ t.trc = s.trc ∧ t.anc = s.anc ∧ t.drt = s.drt ∧ t.atu = s.atu ∧
      t.inm.incidents = s.inm.incidents ∧ t.link.outstanding = s.link.outstanding ∧ t.link.outbound = s.link.outbound ∧
      t.link.slot = s.link.slot ∧ t.link.sending = s.link.sending ∧ t.pending = s.pending) ∧
  ∀ (s : State) (flips : List StoreFlip), s.powered = true →
    ∃ t, exec (.tick flips) s = .next t ∧
      t.clock.runningCount = s.clock.runningCount + 1 ∧ t.clock.ticked = true ∧ t.clock.cycleCount = 0 ∧
      t.clock.state = s.clock.state ∧ t.clock.trim = s.clock.trim ∧ t.clock.serviceOrigin = s.clock.serviceOrigin ∧
      (s.clock.state = .unset →
        t.clock.timeOfDay = s.clock.timeOfDay ∧ t.clock.dayOfWeek = s.clock.dayOfWeek ∧ t.clock.slew = s.clock.slew ∧
          t.clock.serviceDay = s.clock.serviceDay) ∧
      (s.clock.state = .running → ∀ moved : Nat × Int,
        moved = (if (s.clock.runningCount + 1).toNat % 100 ≠ 0 ∨ s.clock.slew = 0 then (1, s.clock.slew)
          else if 0 < s.clock.slew then (2, s.clock.slew - 1) else (0, s.clock.slew + 1)) →
        t.clock.timeOfDay = (s.clock.timeOfDay + moved.1) % 864000 ∧ t.clock.slew = moved.2 ∧
          t.clock.dayOfWeek =
            (if s.clock.timeOfDay + moved.1 < 864000 then s.clock.dayOfWeek else (s.clock.dayOfWeek + 1) % 7)) ∧
      (∀ rolls : Bool, rolls = decide (s.clock.state = .running ∧ t.clock.serviceTime < s.clock.serviceTime) →
        t.clock.serviceDay = (if rolls then
            (if t.clock.serviceOrigin * 36000 ≤ t.clock.timeOfDay then t.clock.dayOfWeek else (t.clock.dayOfWeek + 6) % 7)
          else s.clock.serviceDay) ∧
        t.reg = (if rolls then { s.reg with headways := tmap s.reg.headways (fun _ m => { m with sprev := none }) } else s.reg) ∧
        (flips = [] → t.store = (if rolls then { s.store with trips := s.store.trips.map (fun r =>
            if r.run = .running then { r with rolled := true }
            else { r with run := .planned, rolled := false, entries := r.entries.map (fun e => { e with status := .pending }) }) }
          else s.store))) ∧
      (∀ (whole : Bool), whole = decide (s.resetPin = false ∧ (s.clock.runningCount + 1).toNat % 10 = 0) →
        t.scrubDue = (s.scrubDue || whole) ∧ t.liftDue = (s.liftDue || whole)) ∧
      (s.clock.state = .unset ∨ t.clock.timeOfDay / 10 = s.clock.timeOfDay / 10 →
        t.anc = s.anc ∧ t.atu = s.atu ∧ t.link = s.link) ∧
      (s.clock.state = .running → t.clock.timeOfDay / 10 ≠ s.clock.timeOfDay / 10 →
        ∀ (hour minute second day : Nat) (fires : Scheduled → Prop), hour = t.clock.timeOfDay / 36000 →
          minute = t.clock.timeOfDay / 600 % 60 → second = t.clock.timeOfDay / 10 % 60 → day = t.clock.dayOfWeek →
          (∀ e, fires e ↔ e.enabled = true ∧ day ∈ e.dayMask ∧ (e.hour = .any ∨ e.hour = .num hour) ∧
            (e.minute = .any ∨ e.minute = .num minute) ∧ (e.second = .any ∨ e.second = .num second)) →
          ∀ (i : Nat) (e : Scheduled), s.anc.scheduled[i]? = some e →
            (¬ fires e → t.anc.scheduled[i]? = some e) ∧
            (fires e → t.anc.scheduled[i]? = some { e with fired := true, enabled := decide (e.mode = .recurring) } ∧
              ((∀ (j : Nat) (f : Scheduled), j ≠ i → s.anc.scheduled[j]? = some f → ¬ fires f) → e.stations.Nodup →
                thas s.anc.templates e.template = true → ∀ st ∈ e.stations, ∀ c, tget s.anc.channels st = some c →
                  c.queue.length < 8 → ∃ c', tget t.anc.channels st = some c' ∧ c'.nextSeq = c.nextSeq + 1 ∧
                    ∃ q, (q ∈ c'.queue ∨ ∃ w, c'.playing = some w ∧ w.entry = q) ∧ q.template = e.template ∧ q.priority = e.priority ∧
                      q.params = [hour, minute, second, day] ∧ q.origin = .scheduled ∧ q.seq = c.nextSeq))) ∧
      t.lds = s.lds ∧ t.trt = s.trt ∧ t.gate = s.gate ∧ t.trc = s.trc ∧ t.inm = s.inm ∧ t.drt = s.drt ∧ t.powered = s.powered ∧
      t.resetPin = s.resetPin ∧ t.tripPins = s.tripPins ∧ t.rxd = s.rxd ∧ t.freeCount = s.freeCount ∧ t.pending = s.pending ∧
      t.anc.templates = s.anc.templates ∧ t.anc.plans = s.anc.plans ∧ t.anc.approach = s.anc.approach ∧
      t.anc.announced = s.anc.announced ∧ t.link.outstanding = s.link.outstanding ∧ AttentionBut [.linkOverrun] s t

/-- R22, R23, R24, R26, R27: SET_TIME and ADJUST_TIME, with the rollover they may make and nothing else changed. The rollover indication as
one byte is the model's (log 10). -/
def Obligations.SetsAndAdjustsTime : Prop :=
  ∀ (s : State) (h : Hdr), Received s h → LineWide s h →
    (∀ v d, v < 864000 → d < 7 → ∀ (day : Nat) (rolls : Bool),
      day = (if s.clock.serviceOrigin * 36000 ≤ v then d else (d + 6) % 7) →
      rolls = decide (s.clock.state = .unset ∨ day ≠ s.clock.serviceDay) →
      exec (.setTime h v d) s = .next (setCategory .clockUnset false
        (replied h (.accept [u32 v, u8 d, u8 (ClockState.code .running), flag rolls])
          { s with
            clock := { s.clock with timeOfDay := v, dayOfWeek := d, slew := 0, state := .running, serviceDay := day }
            store := if rolls then (dailyReset s).store else s.store
            reg := if rolls then (clearSprev s).reg else s.reg }))) ∧
    (∀ v d, ¬ (v < 864000 ∧ d < 7) → Refuses (.setTime h v d) h s .range) ∧
    (∀ o : Int, s.clock.state = .unset → Refuses (.adjustTime h o) h s .state) ∧
    (∀ o : Int, s.clock.state = .running → -20 ≤ o → o ≤ 20 →
      exec (.adjustTime h o) s = .next (replied h (.accept [u8 0, u32 s.clock.timeOfDay, u8 s.clock.dayOfWeek, i8 o])
        { s with clock := { s.clock with slew := o } })) ∧
    (∀ o : Int, s.clock.state = .running → o < -20 ∨ 20 < o → ∀ (v d day : Nat) (rolls : Bool),
      v = (((s.clock.timeOfDay : Int) + o) % 864000).toNat →
      d = (if 864000 ≤ (s.clock.timeOfDay : Int) + o then (s.clock.dayOfWeek + 1) % 7
        else if (s.clock.timeOfDay : Int) + o < 0 then (s.clock.dayOfWeek + 6) % 7 else s.clock.dayOfWeek) →
      day = (if s.clock.serviceOrigin * 36000 ≤ v then d else (d + 6) % 7) →
      rolls = decide (0 < o ∧ 864000 ≤ (s.clock.serviceTime : Int) + o) →
      exec (.adjustTime h o) s = .next (replied h (.accept [u8 1, u32 v, u8 d, i8 0])
        { s with
          clock := { s.clock with timeOfDay := v, dayOfWeek := d, slew := 0, serviceDay := day }
          store := if rolls then (dailyReset s).store else s.store
          reg := if rolls then (clearSprev s).reg else s.reg }))

/-- R20: SET_TRIM clamps the trim into -200 to 200 and puts it in force from the tick in progress, in every clock state and line state, with
FULL rights in all areas and not otherwise, and changes nothing else. The clamped indication as one byte is the model's (log 10). -/
def Obligations.SetsTrim : Prop :=
  ∀ (s : State) (h : Hdr) (v : Int), Received s h →
    (LineWide s h → ∀ c : Int, c = max (-200) (min 200 v) →
      ∃ t, exec (.setTrim h v) s = .next t ∧
        t = replied h (.accept [i16 c, flag (decide (v < -200 ∨ 200 < v))]) { s with clock := { s.clock with trim := c } } ∧
        t.clock.tickLength = 1000000 - c ∧ (1000000 - c ≤ s.clock.cycleCount → tickDue t = true)) ∧
    (¬ LineWide s h → ∃ level area, exec (.setTrim h v) s =
      .next (replied h (refuseRights level area) (recordRefusal h.desk .setTrim level area s)))

/-- R29: READ_TIME gives the clock's items as they stand together and changes nothing in the clock, in every clock state and line state,
to a desk with MONITOR in some area and to no other. -/
def Obligations.ReadsTime : Prop :=
  ∀ (s : State) (h : Hdr), Received s h →
    (Somewhere s h .monitor →
      exec (.readTime h) s = .next (replied h (.accept
        [u8 s.clock.state.code, u32 s.clock.timeOfDay, u8 s.clock.dayOfWeek,
          u32 (if s.clock.state = .unset then 0 else s.clock.serviceTime), u8 s.clock.serviceOrigin, u8 s.clock.serviceDay,
          i16 s.clock.trim, i8 s.clock.slew, count32 s.clock.runningCount]) s)) ∧
    (¬ Somewhere s h .monitor → ∃ level area, exec (.readTime h) s =
      .next (replied h (refuseRights level area) (recordRefusal h.desk .readTime level area s)))

/-! ## Line Description (R2 to R17, R190) -/

/-- R2, R3, R4, R7, R9: in SETUP a definition in range is entered, or entered in the old one's place, or removed; one out of range is
refused with RANGE naming its field (each range spelt out; fields counted as log 11 says). Nothing else changes. The numbers of the replies
are the model's (log 10), and so is that the removal of what is not defined is accepted (log 12). -/
def Obligations.Defines : Prop :=
  ∀ (s : State) (h : Hdr) (n : Nat), Received s h → LineWide s h → s.lds.lineState = .setup →
    (∀ f, AllIn (stationRanges n f) → exec (.defineStation h n (.fields f)) s =
      .next (replied h (definedReply (thas s.lds.stations n)) { s with lds := { s.lds with stations := tput s.lds.stations n f } })) ∧
    (∀ f, AllIn (stopRanges n f) → exec (.defineStop h n (.fields f)) s =
      .next (replied h (definedReply (thas s.lds.stops n)) { s with lds := { s.lds with stops := tput s.lds.stops n (stopOf f) } })) ∧
    (∀ f, AllIn (linkRanges n f) → exec (.defineLink h n (.fields f)) s =
      .next (replied h (definedReply (thas s.lds.links n)) { s with lds := { s.lds with links := tput s.lds.links n f } })) ∧
    (∀ f, AllIn (mergeRanges n f) → exec (.defineMerge h n (.fields f)) s =
      .next (replied h (definedReply (thas s.lds.merges n)) { s with lds := { s.lds with merges := tput s.lds.merges n f } })) ∧
    (∀ f, AllIn (classRanges n f) → exec (.defineClass h n (.fields f)) s =
      .next (replied h (definedReply (thas s.lds.classes n)) { s with lds := { s.lds with classes := tput s.lds.classes n f } })) ∧
    (∀ f k, FirstOut (stationRanges n f) k → exec (.defineStation h n (.fields f)) s = .next (replied h (refuseField k) s)) ∧
    (∀ f k, FirstOut (stopRanges n f) k → exec (.defineStop h n (.fields f)) s = .next (replied h (refuseField k) s)) ∧
    (∀ f k, FirstOut (linkRanges n f) k → exec (.defineLink h n (.fields f)) s = .next (replied h (refuseField k) s)) ∧
    (∀ f k, FirstOut (mergeRanges n f) k → exec (.defineMerge h n (.fields f)) s = .next (replied h (refuseField k) s)) ∧
    (∀ f k, FirstOut (classRanges n f) k → exec (.defineClass h n (.fields f)) s = .next (replied h (refuseField k) s)) ∧
    (n < 32 → exec (.defineStation h n .removal) s =
      .next (replied h removedReply { s with lds := { s.lds with stations := tdel s.lds.stations n } })) ∧
    (n < 64 → exec (.defineStop h n .removal) s =
      .next (replied h removedReply { s with lds := { s.lds with stops := tdel s.lds.stops n } })) ∧
    (n < 96 → exec (.defineLink h n .removal) s =
      .next (replied h removedReply { s with lds := { s.lds with links := tdel s.lds.links n } })) ∧
    (n < 4 → exec (.defineMerge h n .removal) s =
      .next (replied h removedReply { s with lds := { s.lds with merges := tdel s.lds.merges n } })) ∧
    (n < 4 → exec (.defineClass h n .removal) s =
      .next (replied h removedReply { s with lds := { s.lds with classes := tdel s.lds.classes n } }))

/-- R5, R6, R9, R131: a section's first definition makes a DEAD record; a later one, allowed while the section is DEAD with no deferred
energise, keeps the record with nothing owed; a zone's first definition is NORMAL, a later one keeps the feed state and derives the capacity
again; a removal discards. A field out of range is refused with RANGE naming it (each range spelt out; fields counted as log 11 says, the
compare-only byte as log 24 says, a removal with a number out of range as log 12 says), and the replacement or removal of a section not
DEAD, or with a deferral, with STATE. The numbers of the replies are the model's (log 10). -/
def Obligations.DefinesSectionOrZone : Prop :=
  ∀ (s : State) (h : Hdr) (n : Nat), Received s h → LineWide s h → s.lds.lineState = .setup →
    (∀ f, AllIn (sectionRanges n f) →
      (tget s.lds.sections n = none → tget s.trc.sections n = none →
        exec (.defineSection h n (.fields f)) s = .next (replied h (.accept [u8 0])
          { s with
            lds := { s.lds with sections := tput s.lds.sections n f }
            trc := { s.trc with sections := tput s.trc.sections n SectRec.init }
            trt := { s.trt with occupancy := tput s.trt.occupancy n 0 }
            inm := { s.inm with effective := tput s.inm.effective n (computeAction s.inm n) } })) ∧
      (∀ g r, tget s.lds.sections n = some g → tget s.trc.sections n = some r →
        (r.state = .dead → r.pending = none →
          exec (.defineSection h n (.fields f)) s = .next (replied h (.accept [u8 1])
            { s with
              lds := { s.lds with sections := tput s.lds.sections n f }
              trc := { s.trc with sections := tmod s.trc.sections n (fun r => { r with owed := 0 }) } })) ∧
        (r.state ≠ .dead ∨ r.pending ≠ none → Refuses (.defineSection h n (.fields f)) h s .state))) ∧
    (∀ f, AllIn (zoneRanges n f) →
      (tget s.lds.zones n = none → tget s.trc.zones n = none →
        exec (.defineZone h n (.fields f)) s = .next (replied h (.accept [u8 0])
          { s with
            lds := { s.lds with zones := tput s.lds.zones n (zoneOf f) }
            trc := { s.trc with zones := tput s.trc.zones n { feed := .normal, capacity := f.normalCap, measured := none } } })) ∧
      (∀ g r, tget s.lds.zones n = some g → tget s.trc.zones n = some r →
        exec (.defineZone h n (.fields f)) s = .next (replied h (.accept [u8 1])
          { s with
            lds := { s.lds with zones := tput s.lds.zones n (zoneOf f) }
            trc := { s.trc with zones := tput s.trc.zones n { r with
              capacity := match r.feed with
                | .normal => f.normalCap
                | .tieFed => f.tieCap
                | .unfed => 0 } } }))) ∧
    (n < 24 → (∀ r, tget s.trc.sections n = some r → r.state = .dead ∧ r.pending = none) →
      exec (.defineSection h n .removal) s = .next (replied h (.accept [u8 2])
        { s with
          lds := { s.lds with sections := tdel s.lds.sections n }
          trc := { s.trc with sections := tdel s.trc.sections n }
          trt := { s.trt with occupancy := tdel s.trt.occupancy n }
          inm := { s.inm with effective := tdel s.inm.effective n } })) ∧
    (∀ r, n < 24 → thas s.lds.sections n = true → tget s.trc.sections n = some r → r.state ≠ .dead ∨ r.pending ≠ none →
      Refuses (.defineSection h n .removal) h s .state) ∧
    (∀ f k, FirstOut (sectionRanges n f) k → exec (.defineSection h n (.fields f)) s = .next (replied h (refuseField k) s)) ∧
    (∀ f k, FirstOut (zoneRanges n f) k → exec (.defineZone h n (.fields f)) s = .next (replied h (refuseField k) s)) ∧
    (24 ≤ n → exec (.defineSection h n .removal) s = .next (replied h (refuseField 0) s)) ∧
    (8 ≤ n → exec (.defineZone h n .removal) s = .next (replied h (refuseField 0) s)) ∧
    (n < 8 → thas s.lds.zones n = true →
      exec (.defineZone h n .removal) s = .next (replied h (.accept [u8 2])
        { s with
          lds := { s.lds with zones := tdel s.lds.zones n }
          trc := { s.trc with zones := tdel s.trc.zones n }
          inm := { s.inm with incidents := tmap s.inm.incidents (fun _ i =>
            if i.source = { kind := .feedLost, number := 0 } ∧ i.loc = .zone n then { i with condition := false } else i) } }))

/-- R11, R12, R13: START_SERVICE with the clock ticked and a sound topology, the checks of R12 one by one, lets the blocks take up the line;
with a check that fails it is refused with TOPOLOGY naming the first that does; STOP_SERVICE with no train lets them put it down. Otherwise
both are refused. The kind number 7 for the line as a whole in the detail is the model's (log 10). -/
def Obligations.StartsAndStopsService : Prop :=
  ∀ (s : State) (h : Hdr), Received s h → LineWide s h →
    (s.lds.lineState = .setup → s.clock.ticked = true → topology s.lds = none →
      exec (.startService h) s = .next (replied h
        (.accept [u8 (LineState.code .service), u8 s.lds.stations.length, u8 s.lds.stops.length, u8 s.lds.links.length,
          u8 s.lds.sections.length, u8 s.lds.zones.length, u8 s.lds.merges.length, u8 s.lds.classes.length])
        { s with
          lds := { s.lds with lineState := .service }
          gate := { arbiters := tmap s.trc.zones (fun _ r =>
              { capacity := r.capacity, inUse := 0, lastStop := none, starts := [], grants := [] }), platformHolds := [] }
          reg := { s.reg with
            headways := tmap s.lds.stops (fun _ _ => { last := none, sprev := none, train := none })
            lastRegs := []
            merges := tmap s.lds.merges (fun _ m =>
              { stop := m.stop, linkA := m.linkA, linkB := m.linkB, separation := m.separation, committed := none }) }
          anc := { s.anc with
            channels := tmap s.lds.stations (fun _ _ => { playing := none, queue := [], nextSeq := 1 }), announced := [] }
          trc := { s.trc with sections := tmap s.trc.sections (fun x r =>
            match tget s.lds.sections x with
            | some f => if r.state = .live then
                { r with interval := if f.provingInterval ≠ 0 then some (later s.now f.provingInterval) else none } else r
            | none => r) } })) ∧
    (s.lds.lineState = .setup → s.clock.ticked = false → Refuses (.startService h) h s .state) ∧
    (s.lds.lineState = .setup → s.clock.ticked = true → ∀ k n r, topology s.lds = some (k, n, r) →
      exec (.startService h) s =
        .next (replied h (.refuse .topology { Detail.empty with object := some (k, n), reason := some r }) s)) ∧
    (topology s.lds = none ↔ s.lds.stops ≠ [] ∧ ∀ c ∈ topologyChecks s.lds, c.holds) ∧
    (s.lds.stops = [] → topology s.lds = some (7, none, 0)) ∧
    (∀ pre c post, s.lds.stops ≠ [] → topologyChecks s.lds = pre ++ c :: post → (∀ d ∈ pre, d.holds) → ¬ c.holds →
      topology s.lds = some (c.kind, some c.number, c.reason)) ∧
    (s.lds.lineState = .service → s.trt.trains = [] →
      Accepts (.stopService h) h s { s with lds := { s.lds with lineState := .setup }, gate := Gate.init } (fun l t =>
        l = [u8 (LineState.code .setup)] ∧ t.store = s.store ∧ t.trt = s.trt ∧ t.inm = s.inm ∧ t.gate = Gate.init ∧
          t.reg = { s.reg with headways := [], lastRegs := [], merges := [] } ∧
          t.anc = { s.anc with channels := [], announced := [] } ∧
          t.trc = { s.trc with sections := tmap s.trc.sections (fun _ r => { r with interval := none }) } ∧
          ∀ p ∈ s.anc.channels, p.2.playing ≠ none → Queued (.cut p.1) t)) ∧
    (s.lds.lineState = .service → s.trt.trains ≠ [] →
      exec (.stopService h) s =
        .next (replied h (.refuse .state { Detail.empty with count := some s.trt.trains.length }) s))

/-- R17, R50, R70, R90, R110, R133, R157, R173, R181, R192: RESTART clears the trains, the runs, the gate's lists and platform holds, the
regulation memories, the pending orders, the other incidents, the plays and the orders waiting, with a CUT for each play, and keeps the
rest: the line and the settings, the trips' coded content, the capacities, the merges, the zones, the sections but for a proving that
starts, the trip inputs and their incidents, and the escalation channels' settings. In which order its parts follow is the model's
(log 26). -/
def Obligations.Restarts : Prop :=
  ∀ (s : State) (h : Hdr), Received s h → LineWide s h →
    Accepts (.restart h) h s
      { s with gate := { s.gate with platformHolds := [] }, link := { s.link with outbound := [] } } (fun l t =>
        l = [u8 s.lds.lineState.code, u8 s.trt.trains.length,
          u8 (s.inm.incidents.filter (fun e => e.2.source.kind ≠ .trip)).length] ∧
        t.trt = { s.trt with trains := [], occupancy := tmap s.trt.occupancy (fun _ _ => 0) } ∧
        t.store = { s.store with trips := s.store.trips.map (fun r =>
          { r with run := .planned, train := none, rolled := false, entries := r.entries.map (fun e => { e with status := .pending }) }) } ∧
        t.gate = { arbiters := tmap s.gate.arbiters (fun _ a =>
            { capacity := a.capacity, inUse := 0, lastStop := none, starts := [], grants := [] }), platformHolds := [] } ∧
        t.reg = { s.reg with
          headways := tmap s.reg.headways (fun _ _ => { last := none, sprev := none, train := none }), lastRegs := []
          merges := tmap s.reg.merges (fun _ m => { m with committed := none }) } ∧
        t.inm = { s.inm with
          incidents := s.inm.incidents.filter (fun e => e.2.source.kind = .trip), tableFull := false
          channels := s.inm.channels.map (fun c => { c with count := 0, openIncident := none })
          effective := t.inm.effective, lineStop := t.inm.lineStop } ∧
        t.anc = { s.anc with
          channels := tmap s.anc.channels (fun _ _ => { playing := none, queue := [], nextSeq := 1 }), announced := [] } ∧
        t.trc.zones = s.trc.zones ∧
        (∀ p ∈ s.anc.channels, p.2.playing ≠ none → Queued (.cut p.1) t) ∧
        (Category.storeWear ∈ t.atu.pending ↔ s.store.wear ≤ s.store.corrected) ∧
        (Category.clockUnset ∈ t.atu.pending ↔ s.clock.state = .unset) ∧
        AttentionBut [.storeWear, .clockUnset, .emergencyIncident, .majorIncident, .minorIncident, .linkOverrun] s t ∧
        (TablesCanonical s → RecordsFollow s → EffectiveStrongest s → ∀ x r, x < 24 → tget s.trc.sections x = some r →
          tget t.trc.sections x = some { r with pending := none } ∨
            (r.state = .live ∧ 1 ≤ r.owed ∧ ∃ f, tget s.lds.sections x = some f ∧ tget t.trc.sections x = some { r with
              pending := none, state := .proving, provingOrdered := some f.provingDuration,
              timeout := some (later s.now f.provingTimeout) })))

/-- R14, R26, R46, R55, R72, R169, R179: each parameter of the line as a whole takes a value in its range and nothing else changes, but
for the service day that follows a new origin and STORE_WEAR that a threshold already reached reports; a value out of range is refused
with RANGE (naming the value as log 11 says), and the origin is refused in SERVICE, whatever its value (the order is log 13's). The signed
value of 4 bytes in the reply is the model's (log 10). -/
def Obligations.LineParameters : Prop :=
  ∀ (s : State) (h : Hdr) (v : Int), Received s h → LineWide s h →
    (s.lds.lineState = .setup → 0 ≤ v → v ≤ 23 →
      exec (.serviceOrigin h v) s = .next (replied h (.accept [i32 v]) { s with clock := { s.clock with
        serviceOrigin := v.toNat
        serviceDay := if v.toNat * 36000 ≤ s.clock.timeOfDay then s.clock.dayOfWeek else (s.clock.dayOfWeek + 6) % 7 } })) ∧
    (s.lds.lineState = .service → Refuses (.serviceOrigin h v) h s .state) ∧
    (1 ≤ v → v ≤ 255 → exec (.wearThreshold h v) s = .next
      (if v ≤ s.store.corrected then
        report .storeWear (replied h (.accept [i32 v]) { s with store := { s.store with wear := v.toNat } })
      else replied h (.accept [i32 v]) { s with store := { s.store with wear := v.toNat } })) ∧
    (0 ≤ v → v ≤ 3000 → exec (.assignGrace h v) s =
      .next (replied h (.accept [i32 v]) { s with trt := { s.trt with grace := v.toNat } })) ∧
    (0 ≤ v → v ≤ 16 → exec (.regWeight h v) s =
      .next (replied h (.accept [i32 v]) { s with reg := { s.reg with params := { s.reg.params with weight := v.toNat } } })) ∧
    (1 ≤ v → v ≤ 16 → exec (.regGain h v) s =
      .next (replied h (.accept [i32 v]) { s with reg := { s.reg with params := { s.reg.params with gain := v.toNat } } })) ∧
    (0 ≤ v → v ≤ 600 → exec (.earlyBand h v) s =
      .next (replied h (.accept [i32 v]) { s with reg := { s.reg with params := { s.reg.params with early := v.toNat } } })) ∧
    (0 ≤ v → v ≤ 600 → exec (.lateBand h v) s =
      .next (replied h (.accept [i32 v]) { s with reg := { s.reg with params := { s.reg.params with late := v.toNat } } })) ∧
    (10 ≤ v → v ≤ 3000 → exec (.profileStep h v) s =
      .next (replied h (.accept [i32 v]) { s with reg := { s.reg with params := { s.reg.params with step := v.toNat } } })) ∧
    (0 ≤ v → v ≤ 255 → exec (.approachTemplate h v) s =
      .next (replied h (.accept [i32 v]) { s with anc := { s.anc with approach := v.toNat } })) ∧
    (0 ≤ v → v ≤ 1 → exec (.autoClear h v) s =
      .next (replied h (.accept [i32 v]) { s with atu := { s.atu with autoClear := decide (v = 1) } })) ∧
    (s.lds.lineState = .setup → v < 0 ∨ 23 < v → exec (.serviceOrigin h v) s = .next (replied h (refuseField 2) s)) ∧
    (v < 1 ∨ 255 < v → exec (.wearThreshold h v) s = .next (replied h (refuseField 2) s)) ∧
    (v < 0 ∨ 3000 < v → exec (.assignGrace h v) s = .next (replied h (refuseField 2) s)) ∧
    (v < 0 ∨ 16 < v → exec (.regWeight h v) s = .next (replied h (refuseField 2) s)) ∧
    (v < 1 ∨ 16 < v → exec (.regGain h v) s = .next (replied h (refuseField 2) s)) ∧
    (v < 0 ∨ 600 < v → exec (.earlyBand h v) s = .next (replied h (refuseField 2) s) ∧
      exec (.lateBand h v) s = .next (replied h (refuseField 2) s)) ∧
    (v < 10 ∨ 3000 < v → exec (.profileStep h v) s = .next (replied h (refuseField 2) s)) ∧
    (v < 0 ∨ 255 < v → exec (.approachTemplate h v) s = .next (replied h (refuseField 2) s)) ∧
    (v < 0 ∨ 1 < v → exec (.autoClear h v) s = .next (replied h (refuseField 2) s))

/-- R14, R125, R190: SET_PARAM by code. A value of a station, stop point, link, section, zone, merge or class in range is put into the
description and nothing else changes, but for what R14 says follows: a settle time sets the watch of that section again (log 38), armed (log
21); a proving interval changed from 0 begins one; a capacity is derived again; a starvation limit lowers the skipped counts. A value out of
range, or one that breaks a joint constraint, is refused with RANGE naming the value (as log 11 says), and an object not defined with
UNKNOWN; codes 29 to 38 are the parameters of the line as a whole; other codes are refused with RANGE. That the value is looked at before
the object is the model's (log 13), and so is the signed value of 4 bytes in the reply (log 10). -/
def Obligations.ObjectParameters : Prop :=
  ∀ (s : State) (h : Hdr) (code n : Nat) (v : Int), Received s h → LineWide s h →
    (∀ f, tget s.lds.stations n = some f → 0 ≤ v → v ≤ 1800 → exec (.setParam h 0 (some n) v) s =
      .next (replied h (.accept [i32 v])
        { s with lds := { s.lds with stations := tput s.lds.stations n { f with lead := v.toNat } } })) ∧
    (∀ p, tget s.lds.stops n = some p → 1 ≤ code → code ≤ 4 → stopRange code v = true →
      ((stopWith code v.toNat p).minDwell ≤ (stopWith code v.toNat p).maxDwell → exec (.setParam h code (some n) v) s =
        .next (replied h (.accept [i32 v])
          { s with lds := { s.lds with stops := tput s.lds.stops n (stopWith code v.toNat p) } })) ∧
      ((stopWith code v.toNat p).maxDwell < (stopWith code v.toNat p).minDwell →
        exec (.setParam h code (some n) v) s = .next (replied h (refuseField 2) s))) ∧
    (∀ k, tget s.lds.links n = some k → 5 ≤ code → code ≤ 8 → 50 ≤ v → v ≤ 12000 →
      (risingRuns (linkWith code v.toNat k) = true → exec (.setParam h code (some n) v) s =
        .next (replied h (.accept [i32 v])
          { s with lds := { s.lds with links := tput s.lds.links n (linkWith code v.toNat k) } })) ∧
      (risingRuns (linkWith code v.toNat k) = false →
        exec (.setParam h code (some n) v) s = .next (replied h (refuseField 2) s))) ∧
    (∀ f, tget s.lds.sections n = some f → 9 ≤ code → code ≤ 16 → sectionRange code v = true →
      ((sectionWith code v.toNat f).provingDuration ≤ (sectionWith code v.toNat f).provingTimeout →
        exec (.setParam h code (some n) v) s = .next (replied h (.accept [i32 v])
          { s with
            lds := { s.lds with sections := tput s.lds.sections n (sectionWith code v.toNat f) }
            trc := { s.trc with sections :=
              if code = 11 then tmod s.trc.sections n (fun r =>
                match settleReference r with
                | some a => { r with settle := some (later a v.toNat), settleArmed := true }
                | none => r)
              else if code = 14 then tmod s.trc.sections n (fun r =>
                if f.provingInterval = 0 ∧ v ≠ 0 ∧ s.lds.lineState = .service ∧ r.interval = none ∧
                    (r.state = .live ∨ r.state = .proving) then { r with interval := some (later s.now v.toNat) } else r)
              else s.trc.sections } })) ∧
      ((sectionWith code v.toNat f).provingTimeout < (sectionWith code v.toNat f).provingDuration →
        exec (.setParam h code (some n) v) s = .next (replied h (refuseField 2) s))) ∧
    (∀ z, tget s.lds.zones n = some z → 17 ≤ code → code ≤ 26 → zoneRange code v = true →
      (code ≠ 17 → code ≠ 18 → code ≠ 26 → exec (.setParam h code (some n) v) s =
        .next (replied h (.accept [i32 v])
          { s with lds := { s.lds with zones := tput s.lds.zones n (zoneWith code v.toNat z) } })) ∧
      (code = 26 → ∃ arbiters, exec (.setParam h code (some n) v) s =
        .next (replied h (.accept [i32 v])
          { s with
            lds := { s.lds with zones := tput s.lds.zones n { z with starvation := v.toNat } }
            gate := { s.gate with arbiters := arbiters } }) ∧
        (∀ k, k ≠ n → tget arbiters k = tget s.gate.arbiters k) ∧
        ∀ a, tget s.gate.arbiters n = some a → tget arbiters n =
          some { a with starts := a.starts.map (fun r => { r with skipped := min v.toNat r.skipped }) }) ∧
      (code = 17 ∨ code = 18 → ∀ r, tget s.trc.zones n = some r →
        Accepts (.setParam h code (some n) v) h s
          { s with lds := { s.lds with zones := tput s.lds.zones n (zoneWith code v.toNat z) } } (fun l t =>
            l = [i32 v] ∧ tget t.trc.zones n = some { r with capacity := capacityIn (zoneWith code v.toNat z) r.feed } ∧
              (∀ a, tget s.gate.arbiters n = some a → ∃ b, tget t.gate.arbiters n = some b ∧
                b.capacity = capacityIn (zoneWith code v.toNat z) r.feed) ∧
              t.store = s.store ∧ t.inm = s.inm ∧ t.anc = s.anc ∧ TrainsStay s t))) ∧
    (∀ m, tget s.lds.merges n = some m → 0 ≤ v → v ≤ 1200 → exec (.setParam h 27 (some n) v) s =
      .next (replied h (.accept [i32 v])
        { s with
          lds := { s.lds with merges := tput s.lds.merges n { m with separation := v.toNat } }
          reg := { s.reg with merges := tmod s.reg.merges n (fun r => { r with separation := v.toNat }) } })) ∧
    (∀ d, tget s.lds.classes n = some d → 1 ≤ v → v ≤ 63 → exec (.setParam h 28 (some n) v) s =
      .next (replied h (.accept [i32 v]) { s with lds := { s.lds with classes := tput s.lds.classes n v.toNat } })) ∧
    (code ≤ 28 → paramRange code v = true → paramObject s code n = false → Refuses (.setParam h code (some n) v) h s .unknown) ∧
    (code ≤ 28 → paramRange code v = false → exec (.setParam h code (some n) v) s = .next (replied h (refuseField 2) s)) ∧
    (39 ≤ code → ∀ obj, Refuses (.setParam h code obj v) h s .range) ∧
    exec (.setParam h 29 none v) s = exec (.serviceOrigin h v) s ∧ exec (.setParam h 30 none v) s = exec (.wearThreshold h v) s ∧
    exec (.setParam h 31 none v) s = exec (.assignGrace h v) s ∧ exec (.setParam h 32 none v) s = exec (.regWeight h v) s ∧
    exec (.setParam h 33 none v) s = exec (.regGain h v) s ∧ exec (.setParam h 34 none v) s = exec (.earlyBand h v) s ∧
    exec (.setParam h 35 none v) s = exec (.lateBand h v) s ∧ exec (.setParam h 36 none v) s = exec (.profileStep h v) s ∧
    exec (.setParam h 37 none v) s = exec (.approachTemplate h v) s ∧ exec (.setParam h 38 none v) s = exec (.autoClear h v) s

/-! ## Reads (R15, R48, R69, R89, R109, R132, R156, R172, R177, R179, R188) -/

/-- R15, R48, R69, R89, R109, R132, R156, R172, R177: a read by a desk with MONITOR where it is needed is answered with the record it
names and changes nothing. The order of the items in a reply is the model's (log 10). -/
def Obligations.Reads : Prop :=
  ∀ (s : State) (h : Hdr), Received s h →
    (Somewhere s h .monitor →
      exec (.readLine h 7 none) s = .next (replied h (.accept (lineItems s)) s) ∧
      exec (.readTripStore h) s = .next (replied h (.accept (storeItems s)) s) ∧
      exec (.readTrains h none) s = .next (replied h (.accept (trainsSnapshot h.desk s)) s) ∧
      exec (.readRegulationParameters h) s = .next (replied h (.accept (paramItems s.reg.params)) s) ∧
      (s.lds.lineState = .service → exec (.readGatePlatforms h) s =
        .next (replied h (.accept (listed (fun p => [u8 p]) s.gate.platformHolds)) s)) ∧
      exec (.readIncidentsSources h) s = .next (replied h (.accept (sourcesItems s)) s) ∧
      exec (.readIncidentsChannels h) s = .next (replied h (.accept (s.inm.channels.toList.flatMap channelItems)) s) ∧
      exec (.readAnnounceTemplates h) s = .next (replied h (.accept (templatesItems s)) s) ∧
      exec (.readAnnouncePlan h) s = .next (replied h (.accept (plansItems s)) s) ∧
      exec (.readAnnounceScheduled h) s = .next (replied h (.accept (s.anc.scheduled.toList.flatMap scheduledItems)) s) ∧
      exec (.readRights h) s = .next (replied h (.accept (rightsItems s.drt)) s)) ∧
    (∀ k n l, k < 7 → objectItems s k n = some l → InArea s h .monitor (objectArea s k n) →
      exec (.readLine h k (some n)) s = .next (replied h (.accept l) s)) ∧
    (∀ n t, tget s.trt.trains n = some t → InArea s h .monitor (trainArea s n) →
      exec (.readTrains h (some n)) s = .next (replied h (.accept (trainItems n t)) s)) ∧
    (∀ p m, s.lds.lineState = .service → tget s.reg.headways p = some m → InArea s h .monitor (stopArea s p) →
      exec (.readRegulationStop h p) s =
        .next (replied h (.accept (headwayItems m ++ optional lastRegItems (tget s.reg.lastRegs p))) s)) ∧
    (∀ n r, s.lds.lineState = .service → tget s.reg.merges n = some r → InArea s h .monitor (mergeArea s n) →
      exec (.readRegulationMerge h n) s = .next (replied h (.accept (mergeItems r)) s)) ∧
    (∀ z a, s.lds.lineState = .service → tget s.gate.arbiters z = some a → InArea s h .monitor (zoneArea s z) →
      exec (.readGateZone h z) s = .next (replied h (.accept (arbiterItems (starvationOf s z) a)) s)) ∧
    (∀ x r, tget s.trc.sections x = some r → InArea s h .monitor (sectArea s x) →
      exec (.readSection h x) s = .next (replied h (.accept (sectionItems r (occupancyOf s x) (effectiveOf s x))) s)) ∧
    (∀ n i, tget s.inm.incidents n = some i → InArea s h .monitor (incidentArea s i) →
      exec (.readIncidentsOne h n) s = .next (replied h (.accept (incidentItems n i)) s)) ∧
    (∀ st c, s.lds.lineState = .service → tget s.anc.channels st = some c → InArea s h .monitor (stationArea s st) →
      exec (.readAnnounceStation h st) s = .next (replied h (.accept (stationChannelItems c)) s))

/-- R132, R156, R179, R188, R46: the reads and the act that clear. READ_ZONES of every zone takes FEED_CHANGE out, READ_INCIDENTS TABLE
the table-full indication (and with it MINOR_INCIDENT, unless an entry or input keeps it), a complete RESYNC the orders waiting and
LINK_OVERRUN, READ_STATUS with auto-clear and CLEAR_ATTENTION the clearable categories, the corrected count going to 0 with STORE_WEAR;
each clears nothing else. The layout of the replies is the model's (log 10), and so is RANGE for the empty set (log 9). -/
def Obligations.ReadsThatClear : Prop :=
  ∀ (s : State) (h : Hdr), Received s h →
    (Somewhere s h .monitor →
      (∀ v, v = s.trc.zones.filter (fun q => holdsAt s h.desk .monitor (zoneArea s q.1)) →
        exec (.readZones h) s = .next
          (if v.length = s.trc.zones.length then setCategory .feedChange false (replied h (.accept (listed zoneItems v)) s)
          else replied h (.accept (listed zoneItems v)) s)) ∧
      Accepts (.readIncidentsTable h) h s s (fun l t =>
        l = listed (fun e => incidentItems e.1 e.2) (s.inm.incidents.filter (fun e => holdsAt s h.desk .monitor (incidentArea s e.2)))
            ++ [flag s.inm.tableFull, u8 s.inm.incidents.length] ∧
          t.inm = { s.inm with tableFull := false, lineStop := t.inm.lineStop } ∧ t.store = s.store ∧ t.anc = s.anc ∧ LineKept s t ∧
          (SignsFollow s → t.inm.lineStop = s.inm.lineStop ∧ AttentionBut [.minorIncident] s t ∧
            (Category.minorIncident ∈ t.atu.pending ↔ Alarms s .minor))) ∧
      (resyncComplete h.desk s = true → exec (.resync h) s = .next (setCategory .linkOverrun false
        (replied h (.accept (resyncItems h.desk s)) { s with link := { s.link with outbound := [] } }))) ∧
      (resyncComplete h.desk s = false → exec (.resync h) s = .next (replied h (.accept (resyncItems h.desk s)) s)) ∧
      (s.atu.autoClear = false → exec (.readStatus h) s =
        .next (replied h (.accept (statusItems s ++ [categoriesItem []])) s)) ∧
      (s.atu.autoClear = true → Accepts (.readStatus h) h s s (fun _ t =>
        (∀ c ∈ clearable, c ∉ t.atu.pending) ∧ AttentionBut clearable s t ∧
          t.store = { s.store with corrected := if Category.storeWear ∈ s.atu.pending then 0 else s.store.corrected } ∧
          t.inm = s.inm ∧ t.anc = s.anc ∧ LineKept s t))) ∧
    (Somewhere s h .operate → ∀ l : List Nat,
      (l ≠ [] → (∀ n ∈ l, n = 5 ∨ n = 7 ∨ n = 8) → Accepts (.clearAttention h l) h s s (fun _ t =>
        (∀ c, c.number ∈ l → c ∉ t.atu.pending) ∧ (∀ c, c.number ∉ l → (c ∈ t.atu.pending ↔ c ∈ s.atu.pending)) ∧
          t.store = { s.store with
            corrected := if 5 ∈ l ∧ Category.storeWear ∈ s.atu.pending then 0 else s.store.corrected } ∧
          t.inm = s.inm ∧ t.anc = s.anc ∧ LineKept s t)) ∧
      (l = [] ∨ (∃ n ∈ l, n ≠ 5 ∧ n ≠ 7 ∧ n ≠ 8) → Refuses (.clearAttention h l) h s .range))

/-! ## Timetable Store (R34 to R39, R44 to R49) -/

/-- R36, R41, R58: CANCEL_TRIP cancels a PLANNED trip; ends a RUNNING one, its train unscheduled, and makes it PLANNED at once where a
rollover has passed; leaves a CANCELLED one; and is refused for a DONE one or none. Nothing else changes. The train released as an optional
item of the reply is the model's (log 10). -/
def Obligations.CancelsTrip : Prop :=
  ∀ (s : State) (h : Hdr) (n : Nat), Received s h → LineWide s h →
    (findTrip s n = none → Refuses (.cancelTrip h n) h s .unknown) ∧
    ∀ r, findTrip s n = some r →
      (r.run = .planned → exec (.cancelTrip h n) s = .next (replied h (.accept (u8 (RunState.code .cancelled) :: tripNumber none))
        { s with
          store :=
            { s.store with trips := s.store.trips.map (fun q => if q.number = n then { q with run := .cancelled } else q) } })) ∧
      (r.run = .cancelled → exec (.cancelTrip h n) s =
        .next (replied h (.accept (u8 (RunState.code .cancelled) :: tripNumber none)) s)) ∧
      (r.run = .done → Refuses (.cancelTrip h n) h s .state) ∧
      (r.run = .running → ∃ l trips trains, exec (.cancelTrip h n) s = .next (replied h (.accept l)
          { s with store := { s.store with trips := trips }, trt := { s.trt with trains := trains } }) ∧
        trips.map Trip.number = s.store.trips.map Trip.number ∧
        (∀ m, m ≠ n → trips.find? (fun q => q.number = m) = s.store.trips.find? (fun q => q.number = m)) ∧
        trips.find? (fun q => q.number = n) = some (if r.rolled then
            { r with run := .planned, train := none, rolled := false,
                     entries := r.entries.map (fun e => { e with status := .pending }) }
          else { r with run := .cancelled, train := none }) ∧
        (r.train = none → trains = s.trt.trains) ∧
        ∀ k, r.train = some k → (∀ j, j ≠ k → tget trains j = tget s.trt.trains j) ∧
          ∀ t, tget s.trt.trains k = some t → tget trains k = some { t with trip := none })

/-- R37, R38, R44 to R46: RETIME_TRIP that passes the six rows of R37 writes each replacement, statuses kept and the profiles of readable
entries kept, that of a repaired entry left open (log 7); the other entries stand, DAMAGED is cleared where the whole trip is replaced and
else stands, and the trip takes its place in store order; a trip of readable entries and the whole of a damaged one are also given by
equations. Its reads correct and count single errors, with STORE_WEAR at the threshold, and make double errors unreadable, with DAMAGED and
INTEGRITY. One that fails a row is refused with the row's code: rows 1 to 4, spelt one by one, read nothing, and the first that fails
decides; for rows 5 and 6 the entries count as their reads leave them. The details are the model's (log 11), and so are a list of no
replacement refused with RANGE, the neighbour's stop point being the one given where the neighbour is replaced too, reads that stay made
when the request is refused (log 17), and the place against a trip whose first entry is unreadable (log 45). -/
def Obligations.RetimesTrip : Prop :=
  ∀ (s : State) (h : Hdr) (n start : Nat) (reps : List Replacement), Received s h → LineWide s h →
    (findTrip s n = none → Refuses (.retimeTrip h n start reps) h s .unknown) ∧
    ∀ r, findTrip s n = some r →
      (∀ pre c post, retimeChecks start reps r = pre ++ c :: post → (∀ d ∈ pre, d.holds) → ¬ c.holds →
        exec (.retimeTrip h n start reps) s = .next (replied h c.refusal s)) ∧
      ((∀ c ∈ retimeChecks start reps r, c.holds) →
        ((∀ e ∈ r.entries, e.bits = .clean) →
          (∀ (i : Nat) (q : Replacement) (e : Entry), reps[i]? = some q → r.entries[start + i]? = some e → e.coded.stop = q.stop) →
          firstFall 0 (timesFrom 0 (r.entries.mapIdx (fun j e =>
            ((if j < start then none else reps[j - start]?).map (asEntry 0)).getD e.coded))) = none →
          ∃ l trips, exec (.retimeTrip h n start reps) s =
              .next (replied h (.accept l) { s with store := { s.store with trips := trips } }) ∧
            (∀ m, m ≠ n → trips.find? (fun q => q.number = m) = s.store.trips.find? (fun q => q.number = m)) ∧
            trips.find? (fun q => q.number = n) = some { r with
              damaged := if start = 0 ∧ reps.length = r.entries.length then false else r.damaged
              entries := r.entries.mapIdx (fun j e =>
                match if j < start then none else reps[j - start]? with
                | none => e
                | some q => { e with coded :=
                    { e.coded with stop := q.stop, sa := q.sa, sd := q.sd, dmin := q.dmin, dmax := q.dmax } }) }) ∧
        (start = 0 → reps.length = r.entries.length → (∀ e ∈ r.entries, e.bits = .clean ∨ e.bits = .unreadable) →
          (∀ q ∈ reps, thas s.lds.stops q.stop = true) →
          (∀ (i : Nat) (q : Replacement) (e : Entry),
            reps[i]? = some q → r.entries[i]? = some e → e.bits = .clean → e.coded.stop = q.stop) →
          (∀ (i : Nat) (a b : Replacement), reps[i]? = some a → reps[i + 1]? = some b → (linkBetween s a.stop b.stop).isSome = true) →
          firstFall 0 (timesFrom 0 (reps.map (asEntry 0))) = none →
          ∃ l trips free, exec (.retimeTrip h n start reps) s =
              .next (replied h (.accept l) { s with store := { s.store with trips := trips }, freeCount := free }) ∧
            (∀ m, m ≠ n → trips.find? (fun q => q.number = m) = s.store.trips.find? (fun q => q.number = m)) ∧
            ∃ r', trips.find? (fun q => q.number = n) = some r' ∧ r'.damaged = false ∧ r'.run = r.run ∧
              r'.entries.map Entry.status = r.entries.map Entry.status ∧ (∀ e ∈ r'.entries, e.bits = .clean) ∧
              ∃ profiles, profiles.length = reps.length ∧
                r'.entries.map Entry.coded = List.zipWith asEntry profiles reps) ∧
        ∀ u, u = { r with entries := r.entries.map readBack, damaged := u.damaged } →
          (u.damaged = true ↔ r.damaged = true ∨ ∃ e ∈ r.entries, doubleError e) →
          (∀ e, RefusedByReading s start reps u e →
            (∃ t, exec (.retimeTrip h n start reps) s = .next t ∧ Settled (replied h e s) t ∧ LineKept s t ∧
              (∀ m, m ≠ n → findTrip t m = findTrip s m)) ∧
            ((∀ x ∈ r.entries, x.bits = .clean ∨ x.bits = .unreadable) →
              exec (.retimeTrip h n start reps) s = .next (replied h e s))) ∧
          ((∀ j, StopFits s start reps u j) → firstFall 0 (retimedTimes start reps u) = none → s.store.corrected ≤ 255 →
            ∃ free r', RetimedTrip start reps u r' ∧
              Accepts (.retimeTrip h n start reps) h s { s with freeCount := free } (fun l t =>
                l = [u16 (tripPosition t n), flag r'.damaged] ∧ LineKept s t ∧
                t.store = { s.store with
                  trips := placeTrip r' (s.store.trips.filter (fun q => q.number ≠ n))
                  corrected := min 255 (s.store.corrected + singleErrors r) } ∧
                (Category.storeWear ∈ t.atu.pending ↔
                  Category.storeWear ∈ s.atu.pending ∨ (1 ≤ singleErrors r ∧ s.store.wear ≤ t.store.corrected)) ∧
                ((∃ e ∈ r.entries, doubleError e) → RaisedAt .integrity 0 (.trip n) t) ∧
                ((∀ e ∈ r.entries, ¬ doubleError e) → t.inm = s.inm ∧ t.anc = s.anc ∧ AttentionBut [.storeWear] s t))))

/-- R34, R35, R39, R44 to R48: a trip that passes the rows of R35, spelt one by one, is stored in its place in store order, PLANNED with
PENDING entries, the first one setting the scrub position; one that does not is refused as the first row that fails says; ERASE_TIMETABLE
with no trip RUNNING empties the store, and is refused with the number RUNNING otherwise. READ_TRIP gives a trip whose stored bits are in
order and changes nothing; the trip after the last is none; where bits are in error it gives the trip as its reads leave it, single errors
corrected and counted, with STORE_WEAR at the threshold, and double errors unreadable, with DAMAGED and INTEGRITY. The scrub reads the entry
at its position and moves on, and what it finds changes that entry, the corrected count and the trip's DAMAGED indication alone. The layout
of the replies is the model's (log 10), and so are the details of the refusals (log 11), the day mask among the fields of row 1 (log 27),
the place against a trip whose first entry is unreadable (log 45) and when the scrub comes within a second (log 20). -/
def Obligations.LoadsReadsAndScrubs : Prop :=
  ∀ s : State,
    (∀ h, Received s h → LineWide s h →
      (∀ t, (∀ c ∈ loadChecks s t, c.holds) → StoreOrdered s →
        ∀ new : Trip, new = Trip.mk t.number t.dayMask (t.entries.map (fun e => { coded := e, bits := .clean, status := .pending }))
            t.next .planned false none false →
          ∃ a b, s.store.trips = a ++ b ∧ (∀ r ∈ a, storeBefore r new) ∧ (∀ r ∈ b, storeBefore new r) ∧
            exec (.loadTrip h t) s = .next (replied h
              (.accept [u16 t.number, u16 a.length, u16 (s.store.trips.length + 1), u16 (entryCount s.store.trips + t.entries.length)])
              { s with
                store :=
                  { s.store with
                    trips := a ++ new :: b
                    scrub := if s.store.trips = [] then some { trip := t.number, index := 0 } else s.store.scrub } })) ∧
      (∀ t pre c post, loadChecks s t = pre ++ c :: post → (∀ d ∈ pre, d.holds) → ¬ c.holds →
        exec (.loadTrip h t) s = .next (replied h c.refusal s)) ∧
      ((∀ r ∈ s.store.trips, r.run ≠ .running) → exec (.eraseTimetable h) s =
        .next (replied h (.accept [u16 s.store.trips.length, u16 (entryCount s.store.trips)])
          { s with store := { s.store with trips := [], scrub := none } })) ∧
      ((∃ r ∈ s.store.trips, r.run = .running) → exec (.eraseTimetable h) s = .next (replied h
        (.refuse .state { Detail.empty with count := some (s.store.trips.countP (fun r => r.run = .running)) }) s))) ∧
    (∀ h, Received s h → Somewhere s h .monitor →
      (∀ n r, findTrip s n = some r →
        ((∀ e ∈ r.entries, e.bits = .clean ∨ e.bits = .unreadable) →
          exec (.readTripByNumber h n) s = .next (replied h (.accept (tripRecordItems r)) s)) ∧
        (StoreOrdered s → s.store.corrected ≤ 255 → ReadsWhole (.readTripByNumber h n) h s r [])) ∧
      (∀ n, findTrip s n = none → Refuses (.readTripByNumber h n) h s .unknown ∧ (n ≠ 0 → Refuses (.readTripNext h n) h s .unknown)) ∧
      (∀ n r, n = 0 ∨ (findTrip s n).isSome = true → tripAfter s n = some r → findTrip s r.number = some r →
        ((∀ e ∈ r.entries, e.bits = .clean ∨ e.bits = .unreadable) →
          exec (.readTripNext h n) s = .next (replied h (.accept (flag false :: tripRecordItems r)) s)) ∧
        (StoreOrdered s → s.store.corrected ≤ 255 → ReadsWhole (.readTripNext h n) h s r [flag false])) ∧
      (∀ n, n = 0 ∨ (findTrip s n).isSome = true → tripAfter s n = none →
        exec (.readTripNext h n) s = .next (replied h (.accept [flag true]) s))) ∧
    (s.powered = true → s.resetPin = false → s.scrubDue = true →
      (s.store.scrub = none → exec .scrub s = .next { s with scrubDue := false }) ∧
      (∀ p r e, s.store.scrub = some p → findTrip s p.trip = some r → r.entries[p.index]? = some e →
        ∀ found : (Trip → Trip) → (Entry → Entry) → Nat → Store, found = (fun trip entry n =>
            { s.store with
              trips := s.store.trips.map (fun q => if q.number = p.trip then
                trip { q with entries := q.entries.mapIdx (fun i e => if i = p.index then entry e else e) } else q)
              corrected := n
              scrub := nextScrub s.store.trips p }) →
          (e.bits = .clean ∨ e.bits = .unreadable → exec .scrub s =
            .next { s with scrubDue := false, store := { s.store with scrub := nextScrub s.store.trips p } }) ∧
          (e.bits = .single → Happens .scrub s { s with scrubDue := false } (fun t =>
            LineKept s t ∧ t.inm = s.inm ∧ t.anc = s.anc ∧
              t.store = found id (fun e => { e with bits := .clean }) (satSucc 255 s.store.corrected) ∧
              (s.store.wear ≤ satSucc 255 s.store.corrected → Category.storeWear ∈ t.atu.pending) ∧
              AttentionBut [.storeWear] s t)) ∧
          (∀ stop, e.bits = .double stop → Happens .scrub s { s with scrubDue := false } (fun t =>
            LineKept s t ∧ RaisedAt .integrity 0 (.trip p.trip) t ∧
              t.store = found (fun q => { q with damaged := true })
                (fun e => { e with bits := .unreadable, coded := { e.coded with stop := stop } }) s.store.corrected))))

/-! ## Trains (R54 to R68) -/

/-- R40, R41, R54 to R56, R64: TRAIN_ENTER that passes the checks makes a record standing at the stop point, with the trip named from its
first entry there, that entry CALLED, those before it SKIPPED and the next link following, and queues its DWELL; the other trains stay where
they are. With no trip named and the clock RUNNING it is given the trip PLANNED and valid today whose first entry is there, can be read, and
has the least difference from the service time not below minus the assign grace, the first in store order among equal ones, and joins it at
entry 0; with none such, or the clock UNSET, it is unscheduled. Where the trip named has the stop point first in its last entry, its run
ends at once and the next trip is joined where it may be (`GoesOn`, R64). A train already recorded is a CONFLICT, the 49th is refused FULL,
and a trip named is refused with UNKNOWN if not held and with STATE if not PLANNED. That the picking reads the first entry of each trip
PLANNED and valid today and no other is the model's reading (log 18), and so are which entries of a trip named and of a next trip are read
(log 51) and the trip as an optional item of the reply (log 10). -/
def Obligations.TrainEnters : Prop :=
  ∀ (s : State) (h : Hdr) (n cls p : Nat) (trip : Option Nat), Received s h → InArea s h .operate (stopArea s p) →
    s.lds.lineState = .service → AllIn (enterRanges n cls p trip) → thas s.lds.classes cls = true → thas s.lds.stops p = true →
    (thas s.trt.trains n = true → Refuses (.trainEnter h n cls p trip) h s .conflict) ∧
    (thas s.trt.trains n = false → 48 ≤ s.trt.trains.length → Refuses (.trainEnter h n cls p trip) h s .full) ∧
    (thas s.trt.trains n = false → s.trt.trains.length < 48 →
      (trip = none → Accepts (.trainEnter h n cls p trip) h s s (fun _ t =>
        ∃ k, tget t.trt.trains n = some k ∧ k.cls = cls ∧ k.loc = .stop p ∧ k.state ≠ .running ∧ k.arrCount = s.now ∧
          (s.clock.state = .unset → k.trip = none) ∧ Queued (.dwell n p k.dwell) t ∧ OthersStay n s t)) ∧
      (∀ r, trip = none → s.clock.state = .running → StoreOrdered s → Picked s p r →
        Accepts (.trainEnter h n cls p trip) h s s (fun l t => (∃ rest, l = tripNumber (some r.number) ++ rest) ∧
          (1 < r.entries.length →
            (∃ k, tget t.trt.trains n = some k ∧ k.trip = some { trip := r.number, index := 0 } ∧ NextOnTrip s r 0 p k.nextLink) ∧
            TripStands r t 0 1 (passedUpTo 0 0) .running (some n) r.rolled ∧
            ∀ q ∈ s.store.trips, q.number ≠ r.number → ReadForPick s t q))) ∧
      (trip = none → s.clock.state = .running → StoreOrdered s → (∀ r ∈ s.store.trips, ∀ d, ¬ Candidate s p r d) →
        Accepts (.trainEnter h n cls p trip) h s s (fun l t => (∃ rest, l = tripNumber none ++ rest) ∧
          (∃ k, tget t.trt.trains n = some k ∧ k.trip = none) ∧ ∀ q ∈ s.store.trips, ReadForPick s t q)) ∧
      (∀ m, trip = some m → findTrip s m = none → Refuses (.trainEnter h n cls p trip) h s .unknown) ∧
      (∀ m r, trip = some m → findTrip s m = some r → r.run ≠ .planned → Refuses (.trainEnter h n cls p trip) h s .state) ∧
      (∀ m r, trip = some m → findTrip s m = some r → r.run = .planned → (∀ e ∈ r.entries, e.bits = .clean ∧ e.coded.stop ≠ p) →
        Refuses (.trainEnter h n cls p trip) h s .range) ∧
      (∀ m r i, trip = some m → findTrip s m = some r → r.run = .planned → FirstAt r 0 p i →
        Accepts (.trainEnter h n cls p trip) h s s (fun _ t =>
          ∃ k, tget t.trt.trains n = some k ∧ k.cls = cls ∧ k.loc = .stop p ∧ k.state ≠ .running ∧ k.arrCount = s.now ∧
            Queued (.dwell n p k.dwell) t ∧ OthersStay n s t ∧
            (i + 1 < r.entries.length → k.trip = some { trip := m, index := i } ∧ NextOnTrip s r i p k.nextLink ∧
              TripStands r t 0 (i + 1) (passedUpTo 0 i) .running (some n) r.rolled) ∧
            (i + 1 = r.entries.length → r.next ≠ some m → RunEnds r t 0 i (passedUpTo 0 i) ∧ GoesOn s t r n p k))))

/-- R40, R57: ASSIGN_TRIP gives a trip that is PLANNED and has the stop point to an unscheduled train that is DWELLING or HELD there: the
trip runs with the train from its first entry there, which is CALLED, those before it being SKIPPED, the next link follows, and no train
moves. A train that has a trip is a CONFLICT. The absent next link at a trip's last entry is the model's (log 32), and so is that no entry
behind the one joined is searched (log 51). -/
def Obligations.AssignsTrip : Prop :=
  ∀ (s : State) (h : Hdr) (n m p : Nat) (k : Train), Received s h → InArea s h .operate (trainArea s n) →
    s.lds.lineState = .service → 1 ≤ n → n ≤ 9999 → 1 ≤ m → m ≤ 65535 → tget s.trt.trains n = some k → k.loc = .stop p →
    (k.state = .dwelling ∨ k.state = .held) →
    (k.trip ≠ none → Refuses (.assignTrip h n m) h s .conflict) ∧
    (k.trip = none → findTrip s m = none → Refuses (.assignTrip h n m) h s .unknown) ∧
    (∀ r, k.trip = none → findTrip s m = some r → r.run ≠ .planned → Refuses (.assignTrip h n m) h s .state) ∧
    (∀ r, k.trip = none → findTrip s m = some r → r.run = .planned → (∀ e ∈ r.entries, e.bits = .clean ∧ e.coded.stop ≠ p) →
      Refuses (.assignTrip h n m) h s .range) ∧
    (∀ r i, k.trip = none → findTrip s m = some r → r.run = .planned → FirstAt r 0 p i →
      Accepts (.assignTrip h n m) h s s (fun _ t => PlacesKept s t ∧
        (∃ k', tget t.trt.trains n = some k' ∧ k'.trip = some { trip := m, index := i } ∧ k'.loc = k.loc ∧ k'.dwell = k.dwell ∧
          k'.state ≠ .running ∧ NextOnTrip s r i p k'.nextLink) ∧
        TripStands r t 0 (i + 1) (passedUpTo 0 i) .running (some n) r.rolled))

/-- R40 to R42, R44, R45, R59 to R64: an ARRIVAL of a train that is RUNNING, or stands elsewhere, leaves it standing at the stop point with
the moment the time stamp gives, clamped into the 600 ds before its receipt, and queues its DWELL; the other trains stay where they are, and
so do the headway memories and its STARTED grants. Its trip is met as R61 and R64 say (`MeetsTrip`): NORMAL, SKIPPED with the entries
passed, OFF_TRIP with the run ended, or UNSCHEDULED, each entry examined being read and checked; at the last entry the run ends, and the
next trip is joined where it may be; the next link follows. A missed departure first withdraws its request and its GRANTED grant, with no
DEPART_CANCEL (`MissedSettled`). Without a double error nothing is raised or announced. An ARRIVAL where it stands already changes nothing.
A stamp outside the day is refused with RANGE, the model's field and order (logs 11, 13), with the clock UNSET too (log 48). The bytes of
the reply are the model's (log 10), and so are the absent next link at a trip's last entry (log 32) and that the entries of a next trip are
read only where it is PLANNED and valid with the clock RUNNING (log 51). -/
def Obligations.Arrives : Prop :=
  ∀ (s : State) (h : Hdr) (n p : Nat) (stamp : Option Nat), Received s h → InArea s h .monitor (stopArea s p) →
    s.lds.lineState = .service →
    (∀ v, 864000 ≤ v → exec (.arrival h n p (some v)) s = .next (replied h (refuseField 2) s)) ∧
    StampGives s stamp (momentOf s stamp).svc (momentOf s stamp).count (momentOf s stamp).clamped ∧
    ((∀ v, stamp = some v → v < 864000) →
    (tget s.lds.stops p = none ∨ tget s.trt.trains n = none → Refuses (.arrival h n p stamp) h s .unknown) ∧
    (∀ k, tget s.lds.stops p ≠ none → tget s.trt.trains n = some k →
      (k.state ≠ .running → k.loc = .stop p → exec (.arrival h n p stamp) s =
        .next (replied h (.accept [u8 5, flag (momentOf s stamp).clamped]) s)) ∧
      (k.state = .running ∨ k.loc ≠ .stop p → Accepts (.arrival h n p stamp) h s s (fun l t =>
        ∃ k', tget t.trt.trains n = some k' ∧ k'.loc = .stop p ∧ k'.state ≠ .running ∧ k'.cls = k.cls ∧
          k'.arrCount = (momentOf s stamp).count ∧ k'.arrSvc = (momentOf s stamp).svc ∧
          k'.dwellExpiry = later (momentOf s stamp).count k'.dwell ∧ (k'.state ≠ .released → k'.grant = none) ∧
          Queued (.dwell n p k'.dwell) t ∧ OthersStay n s t ∧ t.reg.headways = s.reg.headways ∧
          MeetsTrip s t l (decide (k.state ≠ .running)) (momentOf s stamp).clamped n p k k' ∧
          (k.state ≠ .running → MissedSettled s t n p k k') ∧
          (∀ z a g, tget s.gate.arbiters z = some a → g ∈ a.grants → g.train = n → g.startedAt ≠ none →
            ∃ b, tget t.gate.arbiters z = some b ∧ g ∈ b.grants) ∧
          ((∀ r ∈ s.store.trips, ∀ e ∈ r.entries, ¬ doubleError e) → t.inm = s.inm ∧ t.anc = s.anc)))))

/-- R65 to R67, R85, R86, R102, R140: a DEPARTURE of a RELEASED train (none such waits for a start) sets it RUNNING on its next link with
its prediction and writes the headway memory, with the departure time of the entry it leaves by where that entry has a readable one; its
grant becomes STARTED at the moment of the stamp, to end with the start window then in force, any STARTED grant it had is gone, and a window
already over ends the new one at once; one of a train DWELLING or HELD sets it RUNNING and raises UNRELEASED_DEPARTURE (with canonical
tables, kept by TablesAndCapacitiesKept); one from another stop point, or of a train RUNNING, changes nothing. The other trains stay where
they are. The bytes of the replies are the model's (log 10), and so is that an unreleased departure leaves no predicted arrival (log 33). -/
def Obligations.Departs : Prop :=
  ∀ (s : State) (h : Hdr) (n p : Nat) (stamp : Option Nat) (k : Train), Received s h → InArea s h .monitor (stopArea s p) →
    s.lds.lineState = .service → (∀ v, stamp = some v → v < 864000) → tget s.lds.stops p ≠ none → tget s.trt.trains n = some k →
    (k.state = .running → exec (.departure h n p stamp) s =
      .next (replied h (.accept [u8 3, flag (momentOf s stamp).clamped]) s)) ∧
    (k.state ≠ .running → k.loc ≠ .stop p → exec (.departure h n p stamp) s =
      .next (replied h (.accept (u8 2 :: locItems k.loc ++ [flag (momentOf s stamp).clamped])) s)) ∧
    (k.state = .released → k.loc = .stop p → ¬ Waiting s n → Accepts (.departure h n p stamp) h s s (fun _ t =>
      (∃ k', tget t.trt.trains n = some k' ∧ k'.state = .running ∧ k'.causes = [] ∧
        k'.loc = (match k.nextLink with
          | some l => .link l
          | none => .none) ∧
        k'.predicted = departPrediction s k (momentOf s stamp)) ∧
      (∃ m, tget t.reg.headways p = some m ∧ m.last = some (momentOf s stamp).count ∧ m.train = some n ∧
        (k.trip = none → m.sprev = none) ∧
        ∀ q r e, k.trip = some q → findTrip s q.trip = some r → r.entries[q.index]? = some e →
          (e.bits = .clean ∨ e.bits = .single → m.sprev = e.coded.sd) ∧
          (e.bits = .unreadable ∨ doubleError e → m.sprev = none)) ∧ OthersStay n s t ∧
      ∀ g a c ends, k.grant = some g → tget s.gate.arbiters g.zone = some a → c ∈ a.grants → c.train = n → c.startedAt = none →
        ends = later (momentOf s stamp).count (startWindowOf s g.zone) →
        (reached s.now ends = false →
          ((tget t.trt.trains n).bind Train.grant = some { g with startedAt := some (momentOf s stamp).count } ∧
            (∃ b, tget t.gate.arbiters g.zone = some b ∧
              { c with startedAt := some (momentOf s stamp).count, expiry := ends } ∈ b.grants) ∧
            ∀ z b, tget t.gate.arbiters z = some b → ∀ q ∈ b.grants, q.train = n → q.startedAt ≠ none →
              z = g.zone ∧ q.startedAt = some (momentOf s stamp).count ∧ q.expiry = ends)) ∧
        (reached s.now ends = true →
          (tget t.trt.trains n).bind Train.grant = none ∧
            ∀ z b, tget t.gate.arbiters z = some b → ∀ q ∈ b.grants, q.train = n → q.startedAt = none))) ∧
    (k.state = .dwelling ∨ k.state = .held → k.loc = .stop p → TablesCanonical s → Accepts (.departure h n p stamp) h s s (fun _ t =>
      (∃ k', tget t.trt.trains n = some k' ∧ k'.state = .running ∧ k'.causes = [] ∧
        k'.loc = (match k.nextLink with
          | some l => .link l
          | none => .none) ∧
        k'.predicted = none) ∧
      RaisesOf s t .unreleasedDeparture (.stop p) (fun x => x < 24 ∧ stopSect s p = some x) ∧
      t.reg.headways = s.reg.headways ∧ OthersStay n s t))

/-- R68, R105: TRAIN_LEAVE removes the record, the train's requests and grants and its approach announcements, ends its run, and cancels the
departure of a RELEASED train; the other trains stay where they are. The trip ended as an optional item of the reply is the model's (log
10). -/
def Obligations.TrainLeaves : Prop :=
  ∀ (s : State) (h : Hdr) (n : Nat), Received s h → InArea s h .operate (trainArea s n) → s.lds.lineState = .service →
    (tget s.trt.trains n = none → Refuses (.trainLeave h n) h s .unknown) ∧
    ∀ k, tget s.trt.trains n = some k → Accepts (.trainLeave h n) h s s (fun l t =>
      l = tripNumber (k.trip.map TripRef.trip) ∧ tget t.trt.trains n = none ∧ OthersStay n s t ∧
        (∀ a ∈ t.gate.arbiters, (∀ q ∈ a.2.starts, q.train ≠ n) ∧ ∀ g ∈ a.2.grants, g.train ≠ n) ∧
        (∀ c ∈ t.anc.channels, ∀ e ∈ c.2.queue, ¬ (e.origin = .approach ∧ e.train = some n)) ∧
        (∀ p, k.state = .released → k.loc = .stop p → Ordered (.departCancel n p) s t) ∧
        (∀ r q, k.trip = some r → findTrip s r.trip = some q → q.run = .running →
          ∃ q', findTrip t r.trip = some q' ∧ q'.train = none ∧ q'.run = (if q.rolled then .planned else .done)) ∧
        t.inm = s.inm)

/-! ## Regulation (R73 to R85, R95) -/

/-- R73 to R85, R95: the stages of an arrival regulation, each by its rule, with the order within the bounds and profile 3 under RESTRICT;
an ARRIVAL writes their results into the train record and keeps them as the last regulation of the stop point, the headway memories
unchanged; a change of effective action into RESTRICT gives profile 3 and its prediction to the trains waiting toward the section; SET_DWELL
gives a train that is DWELLING or HELD the value asked for clamped into its bounds, a dwell expiry so long after its arrival, the profile
and prediction found again, and a DWELL order; a train RELEASED or RUNNING is refused. That the planned dwell is the plain difference of Sd
and Sa where Sd lies more than 431,999 after Sa, and not the signed one, is the model's (log 14), and so is that the Regulator acts on a
change into RESTRICT after the gate, so that the trains it finds waiting are those the gate has left (log 35), and that the residual lateness
found again for a train with no lateness is 0 (log 50). -/
def Obligations.RegulatesAndSetsDwell : Prop :=
  (∀ i : RegInput, i.bounds.dmin ≤ i.bounds.dmax → ∀ (r : LastReg) (due : Option Int), r = regulate i →
    due = (match i.bounds.sa, i.bounds.sd with
      | some a, _ => some (a : Int)
      | none, some d => some (((d : Int) - r.dp) % 864000)
      | none, none => none) →
    r.train = i.train ∧ r.arrCount = i.arrCount ∧
    r.dp = (match i.bounds.sa, i.bounds.sd with
      | some a, some d => d - a
      | _, _ => max i.bounds.dmin (min i.bounds.dmax i.stop.minDwell)) ∧
    (i.damaged = true ∨ i.arrSvc = none ∨ due = none → r.lateness = none) ∧
    (∀ t a, i.damaged = false → i.arrSvc = some t → due = some a →
      r.lateness = some (max (-30000) (min 30000 (svcDiff t a)))) ∧
    (i.memory.last = none ∨ i.memory.train = some i.train → r.hp = none ∧ r.ha = none ∧ r.error = none) ∧
    (∀ c, i.memory.last = some c → i.memory.train ≠ some i.train → ∃ hp ha : Int, r.hp = some hp ∧ r.ha = some ha ∧
      r.error = some (max (-30000) (min 30000 (hp - ha))) ∧ ha = (i.arrCount + BitVec.ofNat 32 r.dp - c).toInt ∧
      (∀ d q, i.bounds.sd = some d → i.memory.sprev = some q → hp = svcDiff d q) ∧
      (i.bounds.sd = none ∨ i.memory.sprev = none → hp = i.stop.headway)) ∧
    r.weight = (match r.lateness, r.error with
      | none, _ => 0
      | some _, none => 16
      | some _, some _ => if i.incident then 0 else i.params.weight) ∧
    r.c = ((r.weight : Int) * -(r.lateness.getD 0) + (16 - (r.weight : Int)) * r.error.getD 0).tdiv 16 ∧
    r.c1 = (r.c * i.params.gain).tdiv 16 ∧
    (-(i.params.late : Int) ≤ r.c1 → r.c1 ≤ i.params.early → r.c2 = 0) ∧
    ((i.params.early : Int) < r.c1 → r.c2 = r.c1 - i.params.early) ∧ (r.c1 < -(i.params.late : Int) → r.c2 = r.c1 + i.params.late) ∧
    i.bounds.dmin ≤ r.dwell ∧ r.dwell ≤ i.bounds.dmax ∧
    ((r.dp : Int) + r.c2 < i.bounds.dmin → r.dwell = i.bounds.dmin ∧ r.clamp = .low) ∧
    ((i.bounds.dmax : Int) < r.dp + r.c2 → r.dwell = i.bounds.dmax ∧ r.clamp = .high) ∧
    ((i.bounds.dmin : Int) ≤ r.dp + r.c2 → (r.dp : Int) + r.c2 ≤ i.bounds.dmax → (r.dwell : Int) = r.dp + r.c2 ∧ r.clamp = .unclamped) ∧
    (∀ l, r.lateness = some l → r.residual = l + (r.dwell - r.dp)) ∧ (r.lateness = none → r.residual = 0) ∧
    r.shift = r.residual.tdiv i.params.step ∧ r.profile ≤ 3 ∧ (i.restrict = true → r.profile = 3) ∧
    (i.restrict = false → (r.profile : Int) = max 0 (min 3 ((i.bounds.profile : Int) - r.shift)))) ∧
  (∀ (s : State) (h : Hdr) (n p : Nat) (stamp : Option Nat) (k : Train) (stop : Stop) (m : Headway), Received s h →
    InArea s h .monitor (stopArea s p) → s.lds.lineState = .service → (∀ v, stamp = some v → v < 864000) →
    tget s.trt.trains n = some k → k.state = .running ∨ k.loc ≠ .stop p → tget s.lds.stops p = some stop →
    tget s.reg.headways p = some m → TablesCanonical s →
    Accepts (.arrival h n p stamp) h s s (fun _ t => t.reg.headways = s.reg.headways ∧ ∃ k' i,
      tget t.trt.trains n = some k' ∧
      i = { train := n, arrSvc := (momentOf s stamp).svc, arrCount := (momentOf s stamp).count, stop := stop,
            bounds := (readBounds k' stop t).2, damaged := tripDamaged t k', memory := m, incident := incidentCondition t.inm,
            restrict := nextRestricted t k', params := s.reg.params } ∧
      tget t.reg.lastRegs p = some (regulate i) ∧ k'.dwell = (regulate i).dwell ∧
      k'.dwellExpiry = later (momentOf s stamp).count (regulate i).dwell ∧ k'.lateness = (regulate i).lateness ∧
      k'.profile = (regulate i).profile ∧ (k'.nextLink = none → k'.predicted = none) ∧
      ∀ j l, k'.nextLink = some j → tget s.lds.links j = some l → k'.predicted = some {
        count := (momentOf s stamp).count + BitVec.ofNat 32 (k'.dwell + runTime l k'.profile)
        svc := (momentOf s stamp).svc.map (fun v => (v + k'.dwell + runTime l k'.profile) % 864000) })) ∧
  (∀ (s t : State) (x : Nat) (old : Action), t = tellEffect s (x, old, .restrict) → ∀ n k, tget t.trt.trains n = some k →
    k.state = .dwelling ∨ k.state = .held → nextSect t k = some x →
    k.profile = 3 ∧ k.predicted = predict (nextLinkOf t k) 3 k.arrCount k.arrSvc k.dwell) ∧
  ∀ (s : State) (h : Hdr) (n v : Nat), Received s h → InArea s h .operate (trainArea s n) → s.lds.lineState = .service →
    1 ≤ n → n ≤ 9999 →
    (tget s.trt.trains n = none → Refuses (.setDwell h n v) h s .unknown) ∧
    ∀ k, tget s.trt.trains n = some k →
      (k.state = .released ∨ k.state = .running → Refuses (.setDwell h n v) h s .state) ∧
      ∀ p stop, k.loc = .stop p → tget s.lds.stops p = some stop → k.state = .dwelling ∨ k.state = .held →
        ∀ b, b = (readBounds k stop s).2 → Accepts (.setDwell h n v) h s s (fun _ t =>
          PlacesKept s t ∧ Queued (.dwell n p (clampNat b.dmin b.dmax v)) t ∧
          ∃ k', tget t.trt.trains n = some k' ∧ k'.dwell = clampNat b.dmin b.dmax v ∧
            k'.dwellExpiry = later k.arrCount (clampNat b.dmin b.dmax v) ∧ k'.loc = k.loc ∧ k'.arrCount = k.arrCount ∧
            k'.lateness = k.lateness ∧
            (∀ residual : Int, residual = (match k.lateness with
                | some l => l + ((k'.dwell : Int) - plannedDwell stop b)
                | none => 0) →
              (k'.profile : Int) =
                if nextRestricted s k then 3 else max 0 (min 3 ((b.profile : Int) - residual.tdiv s.reg.params.step))) ∧
            k'.predicted = predict (nextLinkOf s k) k'.profile k.arrCount k.arrSvc k'.dwell)

/-! ## Departure Gate (R95, R102, R103, R107, R108) -/

/-- R95, R102, R103: the timers of a train. At its dwell expiry DWELL leaves its causes; at its MERGE_GAP expiry the gap it then waits for,
if any, is not over; at the release timeout its DEPART_CANCEL is queued, its grant leaves the grant list and the record, the units in use
are those of the grants that stay, and it is HELD: with no cause found it waits for a merge or asks again at the tail of the list, and no
selection follows; at the end of a start window its STARTED grant in the zone is gone with its units and from the record. No train moves. An
event that is not due, in each form, changes nothing (the model's, log 2). -/
def Obligations.TrainTimers : Prop :=
  ∀ (s : State) (n : Nat) (k : Train), s.powered = true → s.resetPin = false → tget s.trt.trains n = some k →
    (k.state ≠ .running → .dwell ∈ k.causes → reached s.now k.dwellExpiry = true → Happens (.dwellExpiry n) s s (fun t =>
      BooksKept s t ∧ ∃ k', tget t.trt.trains n = some k' ∧ .dwell ∉ k'.causes ∧ k'.state ≠ .running ∧ k'.dwell = k.dwell)) ∧
    (k.state = .running ∨ .dwell ∉ k.causes ∨ reached s.now k.dwellExpiry = false → exec (.dwellExpiry n) s = .next s) ∧
    (∀ e, k.state ≠ .running → .mergeGap ∈ k.causes → k.mergeGap = some e → reached s.now e = true →
      Happens (.mergeGapExpiry n) s s (fun t => BooksKept s t ∧
        ∃ k', tget t.trt.trains n = some k' ∧ k'.state ≠ .running ∧ ∀ e', k'.mergeGap = some e' → reached s.now e' = false)) ∧
    (k.state = .running ∨ .mergeGap ∉ k.causes ∨ (∀ e, k.mergeGap = some e → reached s.now e = false) →
      exec (.mergeGapExpiry n) s = .next s) ∧
    (∀ p g a c, k.state = .released → k.loc = .stop p → k.grant = some g → tget s.gate.arbiters g.zone = some a → c ∈ a.grants →
      c.train = n → c.startedAt = none → reached s.now c.expiry = true →
      Happens (.releaseTimeout n) s s (fun t => BooksKept s t ∧ Ordered (.departCancel n p) s t ∧
        (¬ Waiting s n → ∃ k' b, tget t.trt.trains n = some k' ∧ k'.state = .held ∧ k'.grant = none ∧
          tget t.gate.arbiters g.zone = some b ∧ (∀ q ∈ b.grants, q.train = n → q.startedAt ≠ none) ∧
          (UnitsBalance s → b.inUse = (b.grants.map Grant.units).sum) ∧
          (a.starts = [] → b.grants = a.grants.filter (fun q => !(q.train = n && q.startedAt.isNone))) ∧
          ∀ x r, WayAhead s k x → sectZone s x = some g.zone → tget s.trc.sections x = some r → r.owed = 0 →
            r.pending ≠ some .isolateOnClear → k.deskHold = false → p ∉ s.gate.platformHolds →
            match mergeCheck t k' with
            | .wait e => k'.causes = [.mergeGap] ∧ k'.mergeGap = some e ∧ ¬ Waiting t n
            | .satisfied _ => k'.causes = [.awaitGrant] ∧ ∃ l, b.starts = l ++
                [{ train := n, stop := p, units := (tget s.lds.classes k.cls).getD 0, time := s.now, skipped := 0 }]))) ∧
    (k.state ≠ .released ∨ (∀ g a c, k.grant = some g → tget s.gate.arbiters g.zone = some a → c ∈ a.grants → c.train = n →
      c.startedAt = none → reached s.now c.expiry = false) → exec (.releaseTimeout n) s = .next s) ∧
    (∀ z a c, tget s.gate.arbiters z = some a → c ∈ a.grants → c.train = n → c.startedAt ≠ none → reached s.now c.expiry = true →
      Happens (.startWindowEnd z n) s s (fun t => BooksKept s t ∧
        ∃ b, tget t.gate.arbiters z = some b ∧ (∀ g ∈ b.grants, g.train = n → g.startedAt = none) ∧
          (UnitsBalance s → b.inUse = (b.grants.map Grant.units).sum) ∧
          (a.starts = [] → b.grants = a.grants.filter (fun q => !(q.train = n && q.startedAt.isSome))) ∧
          ∀ g, ¬ Waiting s n → k.grant = some g → g.zone = z → g.startedAt ≠ none → (tget t.trt.trains n).bind Train.grant = none)) ∧
    (∀ z, (∀ a c, tget s.gate.arbiters z = some a → c ∈ a.grants → c.train = n → c.startedAt ≠ none → reached s.now c.expiry = false) →
      exec (.startWindowEnd z n) s = .next s)

/-- R107, R108: a desk hold is written and DESK_TRAIN is among a standing train's causes; its release takes both away; a platform hold is
written and DESK_PLATFORM is among the causes of every train standing there; its release takes it from those not RELEASED (none of which
waits for a start). A hold already as asked changes nothing. No train moves. The layout of the replies is the model's (log 10). -/
def Obligations.DeskAndPlatformHolds : Prop :=
  ∀ (s : State) (h : Hdr), Received s h → s.lds.lineState = .service →
    (∀ n k, InArea s h .operate (trainArea s n) → tget s.trt.trains n = some k →
      (k.deskHold = false → Accepts (.holdTrain h n) h s s (fun _ t => BooksKept s t ∧
        ∃ k', tget t.trt.trains n = some k' ∧ k'.deskHold = true ∧ (k.state ≠ .running → .deskTrain ∈ k'.causes))) ∧
      (k.deskHold = true → exec (.holdTrain h n) s = .next (replied h (.accept [u8 k.state.code, flag false]) s) ∧
        Accepts (.releaseTrain h n) h s s (fun _ t => BooksKept s t ∧
          ∃ k', tget t.trt.trains n = some k' ∧ k'.deskHold = false ∧
            (k.state = .dwelling ∨ k.state = .held → .deskTrain ∉ k'.causes))) ∧
      (k.deskHold = false → exec (.releaseTrain h n) s = .next (replied h (.accept [u8 k.state.code]) s))) ∧
    (∀ n, LineWide s h → tget s.trt.trains n = none →
      Refuses (.holdTrain h n) h s .unknown ∧ Refuses (.releaseTrain h n) h s .unknown) ∧
    (∀ p, InArea s h .operate (stopArea s p) → thas s.lds.stops p = true → p < 64 →
      (p ∉ s.gate.platformHolds →
        Accepts (.holdPlatform h p) h s
          { s with gate := { s.gate with platformHolds := normSet 64 (p :: s.gate.platformHolds) } } (fun _ t => BooksKept s t ∧
            ∀ n k, tget s.trt.trains n = some k → k.state ≠ .running → k.loc = .stop p →
              ∃ k', tget t.trt.trains n = some k' ∧ .deskPlatform ∈ k'.causes) ∧
        ∃ l, exec (.releasePlatform h p) s = .next (replied h (.accept l) s)) ∧
      (p ∈ s.gate.platformHolds →
        Accepts (.releasePlatform h p) h s
          { s with gate := { s.gate with platformHolds := normSet 64 (s.gate.platformHolds.filter (· ≠ p)) } } (fun _ t =>
            BooksKept s t ∧
              ∀ n k, tget s.trt.trains n = some k → k.state = .dwelling ∨ k.state = .held → k.loc = .stop p → ¬ Waiting s n →
                ∃ k', tget t.trt.trains n = some k' ∧ .deskPlatform ∉ k'.causes) ∧
        ∃ l, exec (.holdPlatform h p) s = .next (replied h (.accept l) s)))

/-- R99: a request fits when the units in use and its own are within the capacity, or when nothing is in use and the capacity is above 0,
its grant then taking the units in use to its own; so a capacity of 0 fits no request that needs units, and its requests wait. -/
def Obligations.Fits : Prop :=
  ∀ (a : Arbiter) (r : Request),
    (a.capacity = 0 → (∀ q ∈ a.starts, 1 ≤ q.units) → ∀ limit, a.choose limit = none) ∧
    (a.fits r = true ↔ a.inUse + r.units ≤ a.capacity ∨ (a.inUse = 0 ∧ 0 < a.capacity)) ∧
    (a.capacity = 0 → 1 ≤ r.units → a.fits r = false) ∧
    (a.inUse = 0 → 0 < a.capacity → (a.add (Grant.mk r.train r.stop r.units r.time none r.time)).inUse = r.units)

/-- R87, R88, R96, R98, R100, R101: a round of selection chooses the oldest urgent request or none, and with none urgent the oldest that
fits, one of another stop point going before one of the last-granted stop point; those that joined before it are skipped once more. A merge
check fails only against a commit of the other link less than the separation before the predicted arrival. A train whose last cause ends
with its dwell requests a start: with room and the check satisfied it is RELEASED, the arrival committed and its DEPART queued; with no room
it waits at the tail of the list; with the check failed it waits under MERGE_GAP and makes no request. -/
def Obligations.SelectsAndReleases : Prop :=
  (∀ (a : Arbiter) (limit : Nat) (pre post : List Request) (r : Request), a.starts = pre ++ r :: post →
    (r.skipped = limit → (∀ q ∈ pre, q.skipped ≠ limit) →
      (a.fits r = true → a.choose limit = some r) ∧ (a.fits r = false → a.choose limit = none)) ∧
    ((∀ q ∈ a.starts, q.skipped ≠ limit) → a.fits r = true →
      ((∀ q ∈ pre, a.fits q = false) →
        a.lastStop ≠ some r.stop ∨ (∀ q ∈ a.starts, a.fits q = true → a.lastStop = some q.stop) → a.choose limit = some r) ∧
      ((∃ q ∈ pre, a.fits q = true) → (∀ q ∈ pre, a.fits q = true → a.lastStop = some q.stop) → a.lastStop ≠ some r.stop →
        a.choose limit = some r)) ∧
    ((∀ q ∈ a.starts, q.skipped ≠ limit) → (∀ q ∈ a.starts, a.fits q = false) → a.choose limit = none) ∧
    ((∀ q ∈ pre, q.train ≠ r.train) → passOver limit r a.starts =
      pre.map (fun q => { q with skipped := if q.skipped < limit then q.skipped + 1 else q.skipped }) ++ post)) ∧
  (∀ (s : State) (k : Train), (k.nextLink = none → mergeCheck s k = .satisfied none) ∧
    ∀ (l n : Nat) (link : LinkFields) (m : MergeRec) (side : Side) (pa : Count), k.nextLink = some l →
      tget s.lds.links l = some link → pa = s.now + BitVec.ofNat 32 (runTime link (if nextRestricted s k then 3 else k.profile)) →
      ((∀ q ∈ s.reg.merges, q.2.linkA ≠ l ∧ q.2.linkB ≠ l) → mergeCheck s k = .satisfied none) ∧
      (tget s.reg.merges n = some m → (m.linkA = l ∧ side = .a) ∨ (m.linkA ≠ l ∧ m.linkB = l ∧ side = .b) →
        (∀ q ∈ s.reg.merges, q.2.linkA = l ∨ q.2.linkB = l → q.1 = n) →
        (m.committed = none → mergeCheck s k = .satisfied (some (n, { count := pa, side := side }))) ∧
        ∀ c, m.committed = some c →
          (c.side = side ∨ 0 ≤ (pa - (c.count + BitVec.ofNat 32 m.separation)).toInt →
            mergeCheck s k = .satisfied (some (n, { count := pa, side := side }))) ∧
          (c.side ≠ side → (pa - (c.count + BitVec.ofNat 32 m.separation)).toInt < 0 →
            mergeCheck s k = .wait (s.now + (c.count + BitVec.ofNat 32 m.separation - pa))))) ∧
  ∀ (s : State) (n x z p units profile : Nat) (k : Train) (r : SectRec) (a : Arbiter), s.powered = true → s.resetPin = false →
    tget s.trt.trains n = some k → k.state = .dwelling → k.causes = [.dwell] → reached s.now k.dwellExpiry = true → k.loc = .stop p →
    k.deskHold = false → p ∉ s.gate.platformHolds → WayAhead s k x → tget s.trc.sections x = some r → r.owed ≠ 8 →
    r.pending ≠ some .isolateOnClear → sectZone s x = some z → tget s.gate.arbiters z = some a →
    units = (tget s.lds.classes k.cls).getD 0 → profile = (if nextRestricted s k then 3 else k.profile) →
    ∀ request : Request, request = { train := n, stop := p, units := units, time := s.now, skipped := 0 } →
      (∀ commit, mergeCheck s k = .satisfied commit → a.starts = [] → a.fits request = true →
        Happens (.dwellExpiry n) s s (fun t => BooksKept s t ∧ Ordered (.depart n p profile) s t ∧
          (∀ m, tget t.reg.merges m = (match commit with
            | some (j, c) => if m = j then (tget s.reg.merges m).map (fun q => { q with committed := some c }) else tget s.reg.merges m
            | none => tget s.reg.merges m)) ∧
          tget t.trt.trains n = some { k with
            state := .released, causes := [], profile := profile
            grant := some { zone := z, units := units, givenAt := s.now, startedAt := none } } ∧
          ∃ e, e = later s.now (((tget s.lds.zones z).map Zone.releaseTimeout).getD 0) ∧ tget t.gate.arbiters z = some { a with
            inUse := a.inUse + units, lastStop := some p
            grants := a.grants ++
              [{ train := n, stop := p, units := units, givenAt := s.now, startedAt := none, expiry := e }] })) ∧
      (∀ commit, mergeCheck s k = .satisfied commit →
        (∀ q ∈ a.starts ++ [request], a.fits q = false) → Happens (.dwellExpiry n) s s (fun t => BooksKept s t ∧
          t.link = s.link ∧ t.reg = s.reg ∧ tget t.trt.trains n = some { k with state := .held, causes := [.awaitGrant] } ∧
          tget t.gate.arbiters z = some { a with starts := a.starts ++ [request] })) ∧
      (∀ e, mergeCheck s k = .wait e → Happens (.dwellExpiry n) s s (fun t => BooksKept s t ∧ t.link = s.link ∧ t.reg = s.reg ∧
        t.gate = s.gate ∧ tget t.trt.trains n = some { k with state := .held, causes := [.mergeGap], mergeGap := some e }))

/-! ## Traction (R113 to R131) -/

/-- R113, R114, R116, R123: ENERGISE of a DEAD section with nothing pending starts it when both breaker limits are met and defers it to the
later limit otherwise; a deferred start does the same at its time. With DE_ENERGISE in force, ISOLATING or EARTHED it is refused with STATE;
ENERGISING, or DEAD with an order pending, it has no effect; LIVE or PROVING it cancels an isolate-on-clear. The store, the incidents, the
announcements and the trains' places are left alone. A deferred start that is not due changes nothing (the model's, log 2). So is the layout
of the replies (log 10). -/
def Obligations.Energises : Prop :=
  ∀ (s : State) (x : Nat) (f : SectionFields) (r : SectRec),
    (limitsMet s.now f r = true ↔ (∀ c, r.lastIsolated = some c → 0 ≤ (s.now - (c + BitVec.ofNat 32 f.deadTime)).toInt) ∧
      ∀ c, r.lastEnergiseStart = some c → 0 ≤ (s.now - (c + BitVec.ofNat 32 f.cycleTime)).toInt) ∧
    (r.lastEnergiseStart = none → energiseLimit f r = r.lastIsolated.map (fun c => c + BitVec.ofNat 32 f.deadTime)) ∧
    (r.lastIsolated = none → energiseLimit f r = r.lastEnergiseStart.map (fun c => c + BitVec.ofNat 32 f.cycleTime)) ∧
    (∀ a b i e : Count, r.lastIsolated = some i → r.lastEnergiseStart = some e → a = i + BitVec.ofNat 32 f.deadTime →
      b = e + BitVec.ofNat 32 f.cycleTime →
      (0 < (a - b).toInt → energiseLimit f r = some a) ∧ ((a - b).toInt < 0 → energiseLimit f r = some b) ∧
        (a = b → energiseLimit f r = some a)) ∧
    (∀ h, OnSection s h .operate x f r →
      (effectiveOf s x = .deEnergise ∨ r.state = .isolating ∨ r.state = .earthed → Refuses (.energise h x) h s .state) ∧
      (effectiveOf s x ≠ .deEnergise →
        (r.state = .dead → r.pending = none → limitsMet s.now f r = true → Accepts (.energise h x) h s s (fun l t =>
          .accept l = tractionReply t x .started ∧ BooksKept s t ∧ Ordered (.breaker x .close) s t ∧
            tget t.trc.sections x = some { r with
              state := .energising, order := some .close, pending := none, lastEnergiseStart := some s.now,
              timeout := some (later s.now f.energiseTimeout) })) ∧
        (∀ c, r.state = .dead → r.pending = none → limitsMet s.now f r = false → energiseLimit f r = some c →
          exec (.energise h x) s = .next (replied h
            (.accept (u8 (SectState.code .dead) :: optional pendingItems (some (.energiseDeferred c))
              ++ TractionOutcome.items (.deferred c)))
            { s with trc := { s.trc with sections := tmod s.trc.sections x (fun r =>
              { r with pending := some (.energiseDeferred c) }) } })) ∧
        (r.state = .energising ∨ (r.state = .dead ∧ r.pending ≠ none) ∨
            ((r.state = .live ∨ r.state = .proving) ∧ r.pending ≠ some .isolateOnClear) →
          exec (.energise h x) s = .next (replied h (tractionReply s x .noEffect) s)) ∧
        (r.state = .live ∨ r.state = .proving → r.pending = some .isolateOnClear → Accepts (.energise h x) h s s (fun l t =>
          .accept l = tractionReply t x (.cancelled .isolateOnClear) ∧ BooksKept s t ∧
            ∃ r', tget t.trc.sections x = some r' ∧ r'.pending = none)))) ∧
    (∀ c, s.powered = true → s.resetPin = false → tget s.lds.sections x = some f → tget s.trc.sections x = some r →
      r.state = .dead → r.pending = some (.energiseDeferred c) →
      (reached s.now c = true → Happens (.deferredEnergiseStart x) s s (fun t =>
        BooksKept s t ∧ Ordered (.breaker x .close) s t ∧
          tget t.trc.sections x = some { r with
            state := .energising, order := some .close, pending := none, lastEnergiseStart := some s.now,
            timeout := some (later s.now f.energiseTimeout) })) ∧
      (reached s.now c = false → exec (.deferredEnergiseStart x) s = .next s))

/-- R113, R117, R119: ISOLATE of a section ENERGISING, LIVE or PROVING starts its isolation, as ISOLATE_ON_CLEAR does of one LIVE with no
train in it; otherwise ISOLATE_ON_CLEAR of one LIVE or PROVING becomes pending; ISOLATE of one DEAD takes its pending order away. The rest
have no effect or are refused with STATE. The store, the incidents, the announcements and the trains' places are left alone. The layout of
the replies is the model's (log 10). -/
def Obligations.Isolates : Prop :=
  ∀ (s : State) (h : Hdr) (x : Nat) (f : SectionFields) (r : SectRec), OnSection s h .operate x f r →
    (∀ c, (c = .isolate h x ∧ (r.state = .energising ∨ r.state = .live ∨ r.state = .proving)) ∨
        (c = .isolateOnClear h x ∧ r.state = .live ∧ occupancyOf s x = 0) →
      Accepts c h s s (fun l t => .accept l = tractionReply t x .started ∧ BooksKept s t ∧ Ordered (.breaker x .opening) s t ∧
        tget t.trc.sections x = some { r with
          state := .isolating, order := some .opening, pending := none, timeout := some (later s.now f.isolateTimeout),
          interval := none, provingOrdered := none })) ∧
    (∀ o, r.state = .dead → r.pending = some o →
      exec (.isolate h x) s = .next (replied h (.accept (u8 (SectState.code .dead) :: optional pendingItems none ++
          TractionOutcome.items (.cancelled o)))
        { s with trc := { s.trc with sections := tmod s.trc.sections x (fun r => { r with pending := none }) } })) ∧
    (∀ c, (c = .isolate h x ∧ ((r.state = .dead ∧ r.pending = none) ∨ r.state = .isolating)) ∨
        (c = .isolateOnClear h x ∧ (r.state = .isolating ∨ (r.pending = some .isolateOnClear ∧
          (r.state = .proving ∨ (r.state = .live ∧ occupancyOf s x ≠ 0))))) →
      exec c s = .next (replied h (tractionReply s x .noEffect) s)) ∧
    ((r.state = .proving ∨ (r.state = .live ∧ occupancyOf s x ≠ 0)) → r.pending ≠ some .isolateOnClear →
      Accepts (.isolateOnClear h x) h s s (fun l t => .accept l = tractionReply t x .pending ∧ BooksKept s t ∧
        tget t.trc.sections x = some { r with pending := some .isolateOnClear })) ∧
    (r.state = .earthed → Refuses (.isolate h x) h s .state) ∧
    (r.state = .dead ∨ r.state = .energising ∨ r.state = .earthed → Refuses (.isolateOnClear h x) h s .state)

/-- R113, R120: EARTH of a DEAD section with no train in it makes it EARTHED and takes its pending order away; with trains in it, it is
refused with their number. UNEARTH of an EARTHED section makes it DEAD. Where it is so already they have no effect; in the other states they
are refused with STATE. The layout of the replies is the model's (log 10). -/
def Obligations.Earths : Prop :=
  ∀ (s : State) (h : Hdr) (x : Nat) (f : SectionFields) (r : SectRec), OnSection s h .full x f r →
    (r.state = .dead → occupancyOf s x = 0 → Accepts (.earth h x) h s s (fun _ t =>
      BooksKept s t ∧ tget t.trc.sections x = some { r with state := .earthed, pending := none })) ∧
    (r.state = .dead → occupancyOf s x ≠ 0 → exec (.earth h x) s =
      .next (replied h (.refuse .state { Detail.empty with count := some (occupancyOf s x) }) s)) ∧
    (r.state = .earthed → exec (.earth h x) s = .next (replied h (tractionReply s x .noEffect) s) ∧
      Accepts (.unearth h x) h s s (fun _ t => BooksKept s t ∧ tget t.trc.sections x = some { r with state := .dead })) ∧
    (r.state = .dead → exec (.unearth h x) s = .next (replied h (tractionReply s x .noEffect) s)) ∧
    (r.state ≠ .dead → r.state ≠ .earthed → Refuses (.earth h x) h s .state ∧ Refuses (.unearth h x) h s .state)

/-- R104, R124, R125, R127, R128: PROVE_NOW of a LIVE section, and the expiry of its proving interval, make one more proving owed, at most
8; a proving starts, with its PROVE order, when one is owed, no train is in the section or RELEASED toward it, and the settle watch is
reached; at 8 owed every train standing toward the section holds PROVING, and the releases and requests toward it are withdrawn
(`OwesOneMore`). An expiry with no interval or settle watch changes nothing (the model's, log 2); the mark of a settle watch not yet taken
is the model's (log 21), and so are the bytes of the replies (log 10). -/
def Obligations.Provings : Prop :=
  ∀ (s : State) (x : Nat) (f : SectionFields) (r : SectRec),
    (∀ h, OnSection s h .operate x f r →
      (r.state = .live → Accepts (.proveNow h x) h s s (fun l t => BooksKept s t ∧
        ∃ r', tget t.trc.sections x = some r' ∧ l = [u8 r'.owed, flag (decide (r'.state = .proving))] ∧ OwesOneMore s t x f r r')) ∧
      (r.state = .proving → exec (.proveNow h x) s = .next (replied h (.accept [u8 r.owed, flag false]) s)) ∧
      (r.state ≠ .live → r.state ≠ .proving → Refuses (.proveNow h x) h s .state)) ∧
    (s.powered = true → s.resetPin = false → tget s.lds.sections x = some f → tget s.trc.sections x = some r →
      (∀ e, r.interval = some e → reached s.now e = true → Happens (.provingIntervalExpiry x) s s (fun t => BooksKept s t ∧
        ∃ r', tget t.trc.sections x = some r' ∧ OwesOneMore s t x f r r' ∧
          r'.interval = (if s.lds.lineState = .service ∧ f.provingInterval ≠ 0 then some (later s.now f.provingInterval) else none))) ∧
      (r.interval = none → exec (.provingIntervalExpiry x) s = .next s) ∧
      (∀ e, r.settle = some e → r.settleArmed = true → reached s.now e = true →
        (r.state = .live → 1 ≤ r.owed → occupancyOf s x = 0 → releasedToward s x = false →
          Happens (.settleWatchExpiry x) s s (fun t => BooksKept s t ∧ Ordered (.prove x f.provingDuration) s t ∧
            tget t.trc.sections x = some { r with
              state := .proving, settleArmed := false, provingOrdered := some f.provingDuration,
              timeout := some (later s.now f.provingTimeout) })) ∧
        (r.state ≠ .live ∨ r.owed = 0 ∨ occupancyOf s x ≠ 0 ∨ releasedToward s x = true →
          exec (.settleWatchExpiry x) s = .next { s with trc := { s.trc with
            sections := tmod s.trc.sections x (fun r => { r with settleArmed := false }) } })) ∧
      (r.settle = none → exec (.settleWatchExpiry x) s = .next s))

/-- R115, R118, R126, R140: the operation timeouts. An energise that runs out opens the breaker, leaves the section DEAD and raises
SECTION_FAULT; an isolation that runs out raises SECTION_FAULT and the section stays ISOLATING with no timeout; a proving that runs out
raises PROVING_TIMEOUT, starts the settle time and owes as before, and the section is LIVE with no timeout; ISOLATING, where an
isolate-on-clear was pending and no train is in it, or the raise has brought DE_ENERGISE upon it; or, with a settle time of 0, PROVING again
(log 37). Each raise is that of R140's table. It may be lost to a full table. No train moves. The tables are canonical, as
TablesAndCapacitiesKept keeps them. A timeout with none running changes nothing (the model's, log 2). -/
def Obligations.OperationTimeouts : Prop :=
  ∀ (s : State) (x : Nat) (r : SectRec), s.powered = true → s.resetPin = false → tget s.trc.sections x = some r →
    (∀ e, r.timeout = some e → reached s.now e = true →
      (r.state = .energising → TablesCanonical s → Happens (.energiseTimeout x) s s (fun t => PlacesKept s t ∧ Ordered (.breaker x .opening) s t ∧
        RaisesOf s t .sectionFault (.sect x) (· = x) ∧
        tget t.trc.sections x = some { r with
          state := .dead, order := some .opening, lastIsolated := some s.now, timeout := none, interval := none,
          provingOrdered := none, pending := none })) ∧
      (r.state = .isolating → TablesCanonical s → Happens (.isolateTimeout x) s s (fun t => PlacesKept s t ∧ RaisesOf s t .sectionFault (.sect x) (· = x) ∧
        tget t.trc.sections x = some { r with timeout := none })) ∧
      (∀ f, tget s.lds.sections x = some f → r.state = .proving → TablesCanonical s → Happens (.provingTimeout x) s s (fun t => PlacesKept s t ∧
        RaisesOf s t .provingTimeout (.sect x) (· = x) ∧
        ∃ r', tget t.trc.sections x = some r' ∧ r'.lastProvingTimeout = some s.now ∧ r'.owed = r.owed ∧
          r'.settle = some (later s.now f.settleTime) ∧
          ((r'.state = .live ∧ r'.timeout = none ∧ r'.provingOrdered = none) ∨
            (r'.state = .isolating ∧ r'.timeout = some (later s.now f.isolateTimeout) ∧ r'.provingOrdered = none ∧
              ((r.pending = some .isolateOnClear ∧ occupancyOf s x = 0) ∨ effectiveOf t x = .deEnergise)) ∨
            (r'.state = .proving ∧ r'.timeout = some (later s.now f.provingTimeout) ∧ r'.provingOrdered = some f.provingDuration ∧
              reached s.now (later s.now f.settleTime) = true)) ∧
          (r.pending = some .isolateOnClear → occupancyOf s x = 0 → reached s.now (later s.now f.settleTime) = false →
            r'.state = .isolating)))) ∧
    (r.timeout = none → exec (.energiseTimeout x) s = .next s ∧ exec (.isolateTimeout x) s = .next s ∧
      exec (.provingTimeout x) s = .next s)

/-- R115, R121, R122, R123, R140: what a BREAKER_FEEDBACK does, beside recording the position: a close ends an energise, an open an
isolation; an open of a section LIVE or PROVING and a close of one DEAD or EARTHED are uncommanded (with canonical tables, kept by
TablesAndCapacitiesKept); the rest do nothing. A section closed is LIVE, with an interval in SERVICE, or PROVING at once where a proving is
owed and its settle time is 0 (log 37); closed uncommanded under DE_ENERGISE it is ISOLATING with a BREAKER OPEN; and one DEAD in SETUP
raises nothing. What a DEAD or EARTHED section closed under DE_ENERGISE keeps of its close is the model's (log 34). So is the UNCOMMANDED
indication, as one byte and set for a DEAD section in SETUP too (log 10). -/
def Obligations.BreakerReports : Prop :=
  ∀ (s : State) (h : Hdr) (x : Nat) (f : SectionFields) (r : SectRec), Received s h → InArea s h .monitor (sectArea s x) → x < 24 →
    tget s.lds.sections x = some f → tget s.trc.sections x = some r →
    (∀ p, (p = .opened ∧ (r.state = .dead ∨ r.state = .energising ∨ r.state = .earthed)) ∨
        (p = .closed ∧ (r.state = .live ∨ r.state = .proving ∨ r.state = .isolating)) →
      exec (.breakerFeedback h x (.val p)) s = .next (replied h (.accept [u8 r.state.code, flag false])
        { s with trc := { s.trc with sections := tmod s.trc.sections x (fun r => { r with feedback := p }) } })) ∧
    (r.state = .isolating → Accepts (.breakerFeedback h x (.val .opened)) h s s (fun l t =>
      l = [u8 (SectState.code .dead), flag false] ∧ BooksKept s t ∧
        tget t.trc.sections x = some { r with
          state := .dead, feedback := .opened, lastIsolated := some s.now, timeout := none, interval := none, provingOrdered := none,
          pending := none })) ∧
    (r.state = .energising → Accepts (.breakerFeedback h x (.val .closed)) h s s (fun _ t => BooksKept s t ∧
      ∃ r', tget t.trc.sections x = some r' ∧ Closed s f r r' ∧ r'.lastEnergiseStart = r.lastEnergiseStart)) ∧
    (r.state = .live ∨ r.state = .proving → TablesCanonical s → Accepts (.breakerFeedback h x (.val .opened)) h s s (fun l t =>
      l = [u8 (SectState.code .dead), flag true] ∧ PlacesKept s t ∧ RaisesOf s t .sectionFault (.sect x) (· = x) ∧
        tget t.trc.sections x = some { r with
          state := .dead, feedback := .opened, lastIsolated := some s.now, timeout := none, interval := none, provingOrdered := none,
          pending := none })) ∧
    (r.state = .dead ∨ r.state = .earthed → TablesCanonical s → Accepts (.breakerFeedback h x (.val .closed)) h s s (fun _ t =>
      PlacesKept s t ∧ (s.lds.lineState = .service ∨ r.state = .earthed → RaisesOf s t .sectionFault (.sect x) (· = x)) ∧
      (s.lds.lineState = .setup → r.state = .dead → BooksKept s t) ∧
      ∃ r', tget t.trc.sections x = some r' ∧ r'.feedback = .closed ∧ r'.lastEnergiseStart = some s.now ∧
        r'.lastEnergiseDone = some s.now ∧
        (effectiveOf s x ≠ .deEnergise → Closed s f r r' ∨ (r'.state = .isolating ∧ effectiveOf t x = .deEnergise)) ∧
        (effectiveOf s x = .deEnergise → r'.state = .isolating ∧ r'.order = some .opening ∧ Ordered (.breaker x .opening) s t ∧
          r'.timeout = some (later s.now f.isolateTimeout) ∧ r'.interval = none)))

/-- R119, R126, R140: PROVE_RESULT of a PROVING section ends the proving with nothing owed; LOW raises PROVING_LOW (with canonical tables,
kept by TablesAndCapacitiesKept); a pending isolate-on-clear of a section with no train is then taken. In other states the result is
reported as NOT_PROVING and does nothing. The reply, which is the NOT_PROVING indication alone, is the model's (log 10). -/
def Obligations.ProveResults : Prop :=
  ∀ (s : State) (h : Hdr) (x : Nat) (f : SectionFields) (r : SectRec), Received s h → InArea s h .monitor (sectArea s x) → x < 24 →
    tget s.lds.sections x = some f → tget s.trc.sections x = some r →
    (∀ o, r.state ≠ .proving → exec (.proveResult h x (.val o)) s = .next (replied h (.accept [flag true]) s)) ∧
    (r.state = .proving →
      Accepts (.proveResult h x (.val .ok)) h s s (fun l t => l = [flag false] ∧ BooksKept s t ∧
        (r.pending ≠ some .isolateOnClear ∨ occupancyOf s x ≠ 0 → tget t.trc.sections x = some { r with
          state := .live, owed := 0, timeout := none, provingOrdered := none,
          interval := r.interval.or (if s.lds.lineState = .service ∧ f.provingInterval ≠ 0 then
            some (later s.now f.provingInterval) else none) }) ∧
        (r.pending = some .isolateOnClear → occupancyOf s x = 0 →
          ∃ r', tget t.trc.sections x = some r' ∧ r'.state = .isolating ∧ r'.owed = 0)) ∧
      (TablesCanonical s → Accepts (.proveResult h x (.val .low)) h s s (fun l t => l = [flag false] ∧ PlacesKept s t ∧
        RaisesOf s t .provingLow (.sect x) (· = x) ∧
          ∃ r', tget t.trc.sections x = some r' ∧ r'.owed = 0 ∧ (r'.state = .live ∨ r'.state = .isolating))))

/-- R106, R130, R131, R140: FEED_MEASURE records the clamped voltages and takes the first step of R130 that applies; a changed feed state
with canonical tables (kept by TablesAndCapacitiesKept) gives the zone its capacity, reports FEED_CHANGE, and raises FEED_LOST at UNFED, or
leaves its condition absent on leaving UNFED. An unchanged one changes nothing else. The clamped indication as one byte is the model's (log
10). -/
def Obligations.FeedMeasures : Prop :=
  ∀ (s : State) (h : Hdr) (z vp vt : Nat) (f : Zone) (r : ZoneRec), Received s h → InArea s h .monitor (zoneArea s z) → z < 8 →
    tget s.lds.zones z = some f → tget s.trc.zones z = some r →
    ∀ (p t : Nat) (back : Prop), p = min vp 2000 → t = min vt 2000 →
      (back ↔ t + f.hc < p ∨ (f.compareOnly = false ∧ f.vtrip + f.ht < p)) →
      ∀ new : FeedState,
        (p < f.vdead ∧ t < f.vdead → new = .unfed) →
        (¬ (p < f.vdead ∧ t < f.vdead) → r.feed = .normal →
          (p + f.hc < t ∧ (f.compareOnly = true ∨ p < f.vtrip) → new = .tieFed) ∧
          (¬ (p + f.hc < t ∧ (f.compareOnly = true ∨ p < f.vtrip)) → new = .normal)) →
        (¬ (p < f.vdead ∧ t < f.vdead) → r.feed = .tieFed → (back → new = .normal) ∧ (¬ back → new = .tieFed)) →
        (¬ (p < f.vdead ∧ t < f.vdead) → r.feed = .unfed → (back → new = .normal) ∧
          (¬ back → f.vdead + f.ht ≤ t → new = .tieFed) ∧ (¬ back → t < f.vdead + f.ht → new = .unfed)) →
        (new = r.feed → exec (.feedMeasure h z vp vt) s = .next (replied h
          (.accept [u8 r.feed.code, u8 r.capacity, flag (decide (2000 < vp ∨ 2000 < vt))])
          { s with trc := { s.trc with zones := tmod s.trc.zones z (fun r =>
            { r with feed := new, measured := some { vp := p, vt := t } }) } })) ∧
        (new ≠ r.feed → TablesCanonical s → Accepts (.feedMeasure h z vp vt) h s s (fun _ u =>
          tget u.trc.zones z = some { feed := new, capacity := capacityIn f new, measured := some { vp := p, vt := t } } ∧
            Category.feedChange ∈ u.atu.pending ∧
            (∀ a, tget s.gate.arbiters z = some a → ∃ b, tget u.gate.arbiters z = some b ∧ b.capacity = capacityIn f new) ∧
            (new = .unfed → RaisesOf s u .feedLost (.zone z) (fun x => x < 24 ∧ ∃ q ∈ s.lds.sections, q.1 = x ∧ q.2.zone = z)) ∧
            (r.feed = .unfed → ∀ m i, tget u.inm.incidents m = some i → i.source = { kind := .feedLost, number := 0 } →
              i.loc = .zone z → i.condition = false) ∧ TrainsStay s u ∧ u.trt.occupancy = s.trt.occupancy ∧
            u.reg.headways = s.reg.headways))

/-! ## Settings (R136, R138, R152, R159, R166, R170, R174) -/

/-- R136, R138, R152, R159, R166, R170, R174: a settings request in range puts its values in place and nothing else changes; one out of
range is refused with RANGE naming its field (fields counted as log 11 says; an enumerated byte outside its list is RANGE by log 9, the
enabled byte above 1 by log 24 and the spare bit of a day mask by log 27), and a filter in range that names an undefined stop point is
refused with UNKNOWN (R10). That RANGE stands before UNKNOWN there is the model's (log 13), and so are the RANGE for a list of pairs of no
length allowed (log 9) and the items of the replies, none for SET_TEMPLATE and SET_ANNOUNCE_PLAN (log 10). -/
def Obligations.Settings : Prop :=
  ∀ (s : State) (h : Hdr) (n : Nat), Received s h → LineWide s h →
    (∀ q v a m (l : List Nat), n < 16 → q ≤ 255 → (∀ x ∈ l, x < 24) →
      exec (.setTripInput h n { qualTime := q, mode := .val m, targets := l, action := .val a, severity := .val v }) s =
        .next (replied h (.accept (u8 q :: capturedItems { mode := m, targets := normSet 24 l, action := a, severity := v }))
          { s with inm := { s.inm with inputs := vmod s.inm.inputs n (fun t =>
            { t with qualTime := q, set := { mode := m, targets := normSet 24 l, action := a, severity := v } }) } })) ∧
    (∀ (d : DetectionKind), n < 16 →
      exec (.setDetectionKind h n
        { handling := .val d.handling, severity := .val d.severity, action := .val d.action, mode := .val d.mode,
          scope := .val d.scope }) s =
        .next (replied h (.accept (kindItems d)) { s with inm := { s.inm with kinds := vmod s.inm.kinds n (fun _ => d) } })) ∧
    (∀ f, AllIn (escalationRanges n f) → (∀ p, f.filter = .num p → thas s.lds.stops p = true) → ∃ l, exec (.setEscalation h n f) s =
      .next (replied h (.accept l)
        { s with inm := { s.inm with channels := vmod s.inm.channels n (fun c =>
          { c with
            kind := f.kind, filter := f.filter, period := f.period, count := 0, severity := Enum.get .minor f.severity,
            action := Enum.get .none f.action, mode := Enum.get .perCycle f.mode }) } })) ∧
    (∀ len params, n < 256 → 10 ≤ len → len ≤ 1200 → params ≤ 4 →
      exec (.setTemplate h n (.fields { length := len, params := params })) s = .next (replied h (.accept [])
        { s with anc := { s.anc with templates := tput s.anc.templates n { length := len, params := params } } })) ∧
    (n < 256 → exec (.setTemplate h n .removal) s =
      .next (replied h (.accept []) { s with anc := { s.anc with templates := tdel s.anc.templates n } })) ∧
    (∀ f, AllIn (planRanges n f) → exec (.setAnnouncePlan h n (.fields f)) s =
      .next (replied h (.accept []) { s with anc := { s.anc with plans := tput s.anc.plans n (planFrom f) } })) ∧
    (n < 32 → exec (.setAnnouncePlan h n .removal) s =
      .next (replied h (.accept []) { s with anc := { s.anc with plans := tdel s.anc.plans n } })) ∧
    (∀ f, AllIn (scheduledRanges n f) → ∃ l, exec (.setScheduled h n f) s = .next (replied h (.accept l)
      { s with anc := { s.anc with scheduled := vmod s.anc.scheduled n (fun _ => scheduledFrom f) } })) ∧
    (∀ l, AllIn (rightsRanges n l) → ∃ items, exec (.setRights h n l) s = .next (replied h (.accept items)
      { s with drt := { s.drt with pending := writeLevels n l s.drt.pending } })) ∧
    (∀ f k, FirstOut (tripInputRanges n f) k → exec (.setTripInput h n f) s = .next (replied h (refuseField k) s)) ∧
    (∀ f k, FirstOut (detectionKindRanges n f) k → exec (.setDetectionKind h n f) s = .next (replied h (refuseField k) s)) ∧
    (∀ f k, FirstOut (escalationRanges n f) k → exec (.setEscalation h n f) s = .next (replied h (refuseField k) s)) ∧
    (∀ f p, AllIn (escalationRanges n f) → f.filter = .num p → thas s.lds.stops p = false → Refuses (.setEscalation h n f) h s .unknown) ∧
    (∀ f k, FirstOut (templateRanges n f) k → exec (.setTemplate h n (.fields f)) s = .next (replied h (refuseField k) s)) ∧
    (∀ f k, FirstOut (planRanges n f) k → exec (.setAnnouncePlan h n (.fields f)) s = .next (replied h (refuseField k) s)) ∧
    (∀ f k, FirstOut (scheduledRanges n f) k → exec (.setScheduled h n f) s = .next (replied h (refuseField k) s)) ∧
    (∀ l k, FirstOut (rightsRanges n l) k → exec (.setRights h n l) s = .next (replied h (refuseField k) s))

/-- R175: RELOAD_RIGHTS, a line-wide request taken in both line states, copies the whole pending table into the table in force and counts
the desk and area pairs whose level changed; the tables are then equal, and nothing else changes: what earlier rights have left behind
stays, and the request itself was checked against the old table. -/
def Obligations.ReloadsRights : Prop :=
  ∀ (s : State) (h : Hdr), Received s h →
    (LineWide s h → ∀ n, n = ((List.range 8).flatMap (fun d => (List.range 16).filter (fun a =>
        levelIn s.drt.inForce d a ≠ levelIn s.drt.pending d a))).length →
      exec (.reloadRights h) s =
        .next (replied h (.accept [u8 n]) { s with drt := { s.drt with inForce := s.drt.pending } })) ∧
    (¬ LineWide s h → ∃ level area, exec (.reloadRights h) s =
      .next (replied h (refuseRights level area) (recordRefusal h.desk .reloadRights level area s)))

/-! ## Incidents (R135 to R155) -/

/-- R138, R139, R141 to R145, R153 to R155, R166, R167: a desk's incident is raised anew, with the desk, place, severity, action and targets
given, and announced by its plan at the affected stations, or merged into the entry for the same desk and place; a detection raises the
entry its kind gives it, with the targets of its scope and a condition unless it is an event, or merges into that for its kind and place
(`EntryRaised`), or is counted by every channel it matches, each raising its own at its period, or ends a condition; a test counts on one
channel. A raise may be lost to a full table, but a desk's is then refused FULL. No train moves. That an ENDED of a condition with no entry
has the outcome IGNORED, and the bytes of the replies, are the model's (log 10). -/
def Obligations.RaisesAndDetects : Prop :=
  ∀ (s : State) (h : Hdr), Received s h → s.lds.lineState = .service → TablesCanonical s →
    (∀ v a (l : List Nat) loc, okRaiseLoc loc = true → definedLoc s loc = true → (∀ x ∈ l, x < 24 ∧ thas s.lds.sections x = true) →
      (∀ area ∈ raiseLocArea s loc :: l.map (sectArea s), InArea s h .operate area) →
      (findIncident s.inm.incidents { kind := .desk, number := h.desk } (raiseLoc loc) = none →
        (s.inm.incidents.length < 32 → Accepts (.raiseIncident h (.val v) (.val a) l loc) h s s (fun _ t => PlacesKept s t ∧
          ∃ n, tget s.inm.incidents n = none ∧ tget t.inm.incidents n = some
            { source := { kind := .desk, number := h.desk }, loc := raiseLoc loc, severity := v, action := a, targets := normSet 24 l,
              mode := .latched, condition := false, state := .active, ack := none, raised := s.now, recurrences := 0 } ∧
          ∀ i stations, tget t.inm.incidents n = some i → stations = affectedStations s i →
            (∀ pl, planOf s.anc.plans i.source = some pl → Severity.code v ≤ Severity.code pl.minSeverity → stations ≠ [] →
              t.anc.announced = s.anc.announced ++
                [Announced.mk n stations pl.resumed [n, h.desk, Severity.code v, (raiseLoc loc).number]] ∧
              ∀ st ∈ stations, ∀ c, tget s.anc.channels st = some c → c.queue.length < 8 → thas s.anc.templates pl.opening = true →
                ∃ c', tget t.anc.channels st = some c' ∧ c'.nextSeq = c.nextSeq + 1 ∧
                  ∃ e, (e ∈ c'.queue ∨ ∃ w, c'.playing = some w ∧ w.entry = e) ∧ e.template = pl.opening ∧
                    e.priority = (if v = .emergency then .emergency else .disruption) ∧ e.origin = .incident ∧ e.incident = some n ∧
                    e.params = [n, h.desk, Severity.code v, (raiseLoc loc).number] ∧ e.seq = c.nextSeq ∧
                    e.reminder = pl.reminder.map (fun r => Reminder.mk r pl.interval .untilClosed)) ∧
            ((∀ pl, planOf s.anc.plans i.source = some pl → Severity.code pl.minSeverity < Severity.code v) ∨ stations = [] →
              t.anc = s.anc))) ∧
        (32 ≤ s.inm.incidents.length → Refuses (.raiseIncident h (.val v) (.val a) l loc) h s .full)) ∧
      (∀ n i, findIncident s.inm.incidents { kind := .desk, number := h.desk } (raiseLoc loc) = some (n, i) →
        Accepts (.raiseIncident h (.val v) (.val a) l loc) h s s (fun _ t => PlacesKept s t ∧
          ∃ j, tget t.inm.incidents n = some j ∧ j.source = i.source ∧ j.loc = i.loc ∧ j.recurrences = satSucc 255 i.recurrences ∧
            j.severity = graver i.severity v ∧ j.action = stronger i.action a ∧ j.targets = normSet 24 (i.targets ++ l) ∧
            j.state = (if i.state = .lifted then .active else i.state)))) ∧
    (∀ k p d, k < 16 → thas s.lds.stops p = true → InArea s h .monitor (stopArea s p) → s.inm.kinds[k]? = some d →
      (d.handling = .direct ∨ matching s k p = [] → Accepts (.detection h k p (.val .active)) h s s (fun l t => PlacesKept s t ∧
        RaisedAt .detection k (.stop p) t ∧
        (findIncident s.inm.incidents { kind := .detection, number := k } (.stop p) = none → 32 ≤ s.inm.incidents.length →
          t.inm.tableFull = true ∧ t.inm.incidents = s.inm.incidents ∧ l = [u8 5]) ∧
        (findIncident s.inm.incidents { kind := .detection, number := k } (.stop p) ≠ none ∨ s.inm.incidents.length < 32 →
          ∃ n, EntryRaised s t { kind := .detection, number := k } (.stop p) d.severity d.action (fun x => InScope s p x d.scope) d.mode
              (decide (k ≠ 0 ∧ k ≠ 2 ∧ k ≠ 6)) n ∧
            l = [if findIncident s.inm.incidents { kind := .detection, number := k } (.stop p) = none then u8 0 else u8 1, u16 n]))) ∧
      (∀ c ch, s.inm.channels[c]? = some ch →
        (c ∈ matching s k p ↔ 1 ≤ ch.period ∧ ch.kind = k ∧ (ch.filter = .any ∨ ch.filter = .num p))) ∧
      (d.handling = .counted → matching s k p ≠ [] → Accepts (.detection h k p (.val .active)) h s s (fun _ t => PlacesKept s t ∧
        ∀ c ch, s.inm.channels[c]? = some ch →
          (c ∉ matching s k p → t.inm.channels[c]? = some ch) ∧
          (c ∈ matching s k p → ch.count + 1 < ch.period ∨ ch.openIncident ≠ none →
            t.inm.channels[c]? = some { ch with lastStop := some p, count := min ch.period (ch.count + 1) }) ∧
          (c ∈ matching s k p → ch.period ≤ ch.count + 1 → ch.openIncident = none →
            (t.inm.tableFull = true ∧ t.inm.channels[c]? = some { ch with lastStop := some p, count := ch.period }) ∨
            ∃ m i, tget t.inm.incidents m = some i ∧ i.source = { kind := .escalation, number := c } ∧ i.loc = .stop p ∧
              i.state ≠ .lifted ∧
              EntryRaised s t { kind := .escalation, number := c } (.stop p) ch.severity ch.action (fun x => InScope s p x d.scope) ch.mode
                false m ∧
              t.inm.channels[c]? = some { ch with lastStop := some p, count := 0, openIncident := some m }))) ∧
      (k = 0 ∨ k = 2 ∨ k = 6 ∨ findIncident s.inm.incidents { kind := .detection, number := k } (.stop p) = none →
        exec (.detection h k p (.val .ended)) s = .next (replied h (.accept [u8 4]) s)) ∧
      (∀ n i, k ≠ 0 → k ≠ 2 → k ≠ 6 → findIncident s.inm.incidents { kind := .detection, number := k } (.stop p) = some (n, i) →
        exec (.detection h k p (.val .ended)) s = .next (replied h (.accept [u8 3, u16 n])
          { s with inm := { s.inm with incidents := tmap s.inm.incidents (fun _ i =>
            if i.source = { kind := .detection, number := k } ∧ i.loc = .stop p then { i with condition := false } else i) } }))) ∧
    (∀ c p ch, s.inm.channels[c]? = some ch → thas s.lds.stops p = true → InArea s h .operate (stopArea s p) →
      (ch.period = 0 → Refuses (.testDetection h c p) h s .state) ∧
      (1 ≤ ch.period → ch.count + 1 < ch.period ∨ ch.openIncident ≠ none →
        exec (.testDetection h c p) s = .next (replied h (.accept (u8 (min ch.period (ch.count + 1)) :: tripNumber none))
          { s with inm := { s.inm with channels := vmod s.inm.channels c (fun ch =>
            { ch with lastStop := some p, count := min ch.period (ch.count + 1) }) } })) ∧
      (1 ≤ ch.period → ch.period ≤ ch.count + 1 → ch.openIncident = none →
        Accepts (.testDetection h c p) h s s (fun _ t => PlacesKept s t ∧
          ((t.inm.tableFull = true ∧ t.inm.channels[c]? = some { ch with lastStop := some p, count := ch.period }) ∨
            ∃ m i, tget t.inm.incidents m = some i ∧ i.source = { kind := .escalation, number := c } ∧ i.loc = .stop p ∧
              i.state ≠ .lifted ∧
              (∀ d, s.inm.kinds[ch.kind]? = some d → EntryRaised s t { kind := .escalation, number := c } (.stop p) ch.severity ch.action
                (fun x => InScope s p x d.scope) ch.mode false m) ∧
              t.inm.channels[c]? = some { ch with lastStop := some p, count := 0, openIncident := some m }))))

/-- R137, R144, R146 to R150, R154: ACK_INCIDENT of an ACTIVE entry records the desk and the moment and leaves actions as they are;
CLEAR_INCIDENT of a LATCHED entry whose condition is absent lifts it (with canonical tables, kept by TablesAndCapacitiesKept), and with its
condition present counts a recurrence; an entry both lifted and acknowledged is removed, its number free, and trip inputs waiting and
channels at their period are given entries in its room (`EntryRemoved`). A PER_CYCLE entry is not cleared. No train moves. That the reply to
a removal gives REMOVED, 3, and that the reply to a clear gives STILL_PRESENT as an indication of its own behind the state, is the model's
(log 10). -/
def Obligations.AcksAndClears : Prop :=
  ∀ (s : State) (h : Hdr) (n : Nat) (i : Incident), Received s h → tget s.inm.incidents n = some i →
    (InArea s h .operate (incidentArea s i) →
      (i.state = .active → Accepts (.ackIncident h n) h s s (fun l t =>
        l = [u8 (IncidentState.code .acked)] ∧ LineKept s t ∧ t.store = s.store ∧ t.anc = s.anc ∧ t.inm.effective = s.inm.effective ∧
          t.inm.inputs = s.inm.inputs ∧ t.inm.channels = s.inm.channels ∧
          (∀ k, k ≠ n → tget t.inm.incidents k = tget s.inm.incidents k) ∧
          tget t.inm.incidents n = some { i with state := .acked, ack := some { desk := h.desk, count := s.now } })) ∧
      (i.state = .acked → exec (.ackIncident h n) s = .next (replied h (.accept [u8 (IncidentState.code .acked)]) s)) ∧
      (i.state = .lifted → Accepts (.ackIncident h n) h s s (fun l t => l = [u8 3] ∧ PlacesKept s t ∧
        (∀ j, tget t.inm.incidents n = some j → j.raised = s.now) ∧ (TablesCanonical s → SourcesSound s → EntryRemoved s t n i)))) ∧
    (InArea s h .full (incidentArea s i) →
      (i.mode = .perCycle → Refuses (.clearIncident h n) h s .state) ∧
      (i.mode = .latched → i.state = .lifted →
        exec (.clearIncident h n) s = .next (replied h (.accept [u8 (IncidentState.code .lifted), flag false]) s)) ∧
      (i.mode = .latched → i.state ≠ .lifted → i.condition = true →
        exec (.clearIncident h n) s = .next (replied h (.accept [u8 (IncidentState.code i.state), flag true])
          { s with inm := { s.inm with incidents := tmod s.inm.incidents n (fun i =>
            { i with recurrences := satSucc 255 i.recurrences }) } })) ∧
      (i.mode = .latched → i.state = .active → i.condition = false → i.source.kind ≠ .integrity ∨ i.targets = [] →
        TablesCanonical s → Accepts (.clearIncident h n) h s s (fun l t => l = [u8 (IncidentState.code .lifted), flag false] ∧ PlacesKept s t ∧
          tget t.inm.incidents n = some { i with state := .lifted })) ∧
      (i.mode = .latched → i.state = .acked → i.condition = false →
        Accepts (.clearIncident h n) h s s (fun l t => l = [u8 3, flag false] ∧ PlacesKept s t ∧
          (∀ j, tget t.inm.incidents n = some j → j.raised = s.now) ∧ (TablesCanonical s → SourcesSound s → EntryRemoved s t n i))))

/-- R44, R45, R82, R83, R135 to R137, R143 to R147, R149: a trip input that goes active qualifies for its time, or at once when that is 0;
qualified, it is in force with its settings captured, and they are raised: its incident stands in the table under the number it records; or
its raise was lost to a full table and it has none, and the table is as it was but for what reading the store finds: with RESTRICT ended on
a section, trains toward it have their profiles recomputed, and a double error found there adds to a standing INTEGRITY entry
(`InputRaises`). Either way its action acts on its targets (`ActedOn`). A new entry takes the number of R143; going inactive the input is
IDLE and the condition of its entry absent. At a whole second the PER_CYCLE entries in force with their condition absent are lifted if
ACTIVE, their trip inputs leaving force, and removed if ACKED, and the PER_CYCLE inputs in force without an entry and not ACTIVE leave
force. When the lifting comes within a second is the model's (log 20), and so is the order of its parts (log 25). An event that is not due
changes nothing (log 2). -/
def Obligations.TripInputs : Prop :=
  ∀ (s : State) (n : Nat) (k : TripInput), s.inm.inputs[n]? = some k →
    (s.powered = true → s.resetPin = false →
      (k.qual = .idle → 1 ≤ k.qualTime → exec (.tripInputActive n) s = .next { s with
        tripPins := vmod s.tripPins n (fun _ => true),
        inm := { s.inm with inputs := vmod s.inm.inputs n (fun t =>
          { t with qual := .qualifying, qualCycles := 0, qualLimit := k.qualTime * 10000 }) } }) ∧
      (k.qual ≠ .idle → exec (.tripInputActive n) s = .next { s with tripPins := vmod s.tripPins n (fun _ => true) }) ∧
      (∀ c, (c = .tripQualification n ∧ k.qual = .qualifying) ∨ (c = .tripInputActive n ∧ k.qual = .idle ∧ k.qualTime = 0) →
        TablesCanonical s →
        Happens c s (if c = .tripInputActive n then { s with tripPins := vmod s.tripPins n (fun _ => true) } else s) (fun t =>
          PlacesKept s t ∧ RaisedAt .trip n .none t ∧
          InputRaises s t n k.set ∧ ActedOn s t k.set.targets k.set.action ∧
          ∃ k', t.inm.inputs[n]? = some k' ∧ k'.qual = .active ∧ k'.inForce = true ∧ k'.captured = some k.set ∧
            (k'.entry = none → t.inm.tableFull = true) ∧
            (findIncident s.inm.incidents { kind := .trip, number := n } .none = none → s.inm.incidents.length < 32 →
              ∃ m, k'.entry = some m ∧ NumberGiven s m ∧
                (NoDoubleError s → t.inm.nextNumber = numberAfter m)) ∧
            ∀ m, k'.entry = some m → ∃ i, tget t.inm.incidents m = some i ∧ i.source = { kind := .trip, number := n } ∧
              i.loc = .none ∧ i.state ≠ .lifted ∧ i.condition = true ∧ (∀ x ∈ k.set.targets, x < 24 → x ∈ i.targets) ∧
              Severity.code i.severity ≤ Severity.code k.set.severity ∧ Action.code i.action ≤ Action.code k.set.action)) ∧
      (k.qual ≠ .qualifying → exec (.tripQualification n) s = .next s) ∧
      (k.qual = .active → exec (.tripInputInactive n) s = .next { s with
        tripPins := vmod s.tripPins n (fun _ => false),
        inm := { s.inm with
          inputs := vmod s.inm.inputs n (fun t => { t with qual := .idle, qualCycles := 0 }),
          incidents := tmap s.inm.incidents (fun _ i =>
            if i.source = { kind := .trip, number := n } ∧ i.loc = .none then { i with condition := false } else i) } }) ∧
      (k.qual ≠ .active → exec (.tripInputInactive n) s = .next { s with
        tripPins := vmod s.tripPins n (fun _ => false),
        inm := { s.inm with inputs := vmod s.inm.inputs n (fun t => { t with qual := .idle, qualCycles := 0 }) } }) ∧
      (s.liftDue = true → TablesCanonical s → Happens .perCycleLift s { s with liftDue := false } (fun t => PlacesKept s t ∧
        (∀ c, k.captured = some c → c.mode = .perCycle → k.inForce = true → k.entry = none → k.qual ≠ .active →
          ∃ k', t.inm.inputs[n]? = some k' ∧ k'.inForce = false ∧ k'.entry = none ∧ k'.captured = some c ∧ k'.qual = k.qual) ∧
        (∀ m i, tget s.inm.incidents m = some i → i.mode = .perCycle → i.state = .acked → i.condition = false →
          ∀ j, tget t.inm.incidents m = some j → j.raised = s.now) ∧
        (∀ m i, tget s.inm.incidents m = some i → i.mode = .perCycle → i.state = .active → i.condition = false →
          (∀ q ∈ s.inm.incidents, q.2.mode = .perCycle → q.2.condition = false → q.2.state ≠ .acked) → i.source.kind ≠ .integrity →
          tget t.inm.incidents m = some { i with state := .lifted } ∧
          (i.source = { kind := .trip, number := n } → ∃ k', t.inm.inputs[n]? = some k' ∧ k'.inForce = false)))) ∧
      (s.liftDue = false → exec .perCycleLift s = .next s)) ∧
    (s.powered = false ∨ s.resetPin = true →
      exec (.tripInputActive n) s = .next { s with tripPins := vmod s.tripPins n (fun _ => true) } ∧
      exec (.tripInputInactive n) s = .next { s with tripPins := vmod s.tripPins n (fun _ => false) })

/-! ## Announcements (R160 to R165) -/

/-- R160, R161, R163, R164, R165, R177: an ANNOUNCE joins the queue, or starts at once, at each station addressed that has room or whose
last entry is of lower priority and is evicted, leaves a station whose queue is full of its priority or higher as it was, and leaves the
others' channels alone; full at every station it is refused with FULL naming them; an EMERGENCY cuts the play of a lower priority at its
station and plays, a cut DISRUPTION going back into the queue; a CANCEL_ANNOUNCE takes the desk's entries of the template out of each queue
and ends their play. A desk with OPERATE at none of the stations is refused with RIGHTS. No other block changes. -/
def Obligations.DeskAnnouncements : Prop :=
  ∀ (s : State) (h : Hdr) (l : List Nat) (tp : Nat), Received s h → s.lds.lineState = .service → l ≠ [] →
    (∀ x ∈ l, x < 32 ∧ thas s.lds.stations x = true) → tp ≤ 255 →
    ∀ allowed, allowed = (normSet 32 l).filter (fun x => holdsAt s h.desk .operate (stationArea s x)) →
      (∀ p ps r tmpl, tget s.anc.templates tp = some tmpl → ps.length = tmpl.params → ps.length ≤ 4 → (∀ v ∈ ps, v < 65536) →
        (∀ q, r = some q → okReminder q = true ∧ thas s.anc.templates q.template = true) →
        ∀ takes : StationChannel → Prop, (∀ c, takes c ↔ c.queue.length < 8 ∨
            ∃ last, c.queue.getLast? = some last ∧ Priority.code p < Priority.code last.priority) →
        ((∃ x ∈ allowed, ∃ c, tget s.anc.channels x = some c ∧ takes c) →
          Accepts (.announce h l tp (.val p) ps r) h s s (fun _ t => LineKept s t ∧ t.store = s.store ∧ t.inm = s.inm ∧
            AttentionBut [.linkOverrun] s t ∧
            (∀ x, x ∉ allowed → tget t.anc.channels x = tget s.anc.channels x) ∧
            (∀ x ∈ allowed, ∀ c, tget s.anc.channels x = some c → ¬ takes c → tget t.anc.channels x = some c) ∧
            ∀ x ∈ allowed, ∀ c, tget s.anc.channels x = some c → takes c →
              ∃ c', tget t.anc.channels x = some c' ∧ c'.nextSeq = c.nextSeq + 1 ∧ c'.queue.length ≤ max 8 c.queue.length ∧
                ∃ e, (e ∈ c'.queue ∨ ∃ w, c'.playing = some w ∧ w.entry = e) ∧ e.template = tp ∧ e.priority = p ∧ e.params = ps ∧
                  e.origin = .desk ∧ e.desk = some h.desk ∧ e.seq = c.nextSeq)) ∧
        (allowed ≠ [] → (∀ x ∈ allowed, ∃ c, tget s.anc.channels x = some c ∧ ¬ takes c) →
          exec (.announce h l tp (.val p) ps r) s =
            .next (replied h (.refuse .full { Detail.empty with stations := some allowed }) s)) ∧
        (∀ x c w, allowed = [x] → p = .emergency → tget s.anc.channels x = some c → c.queue.length < 8 →
          (∀ e ∈ c.queue, e.priority ≠ .emergency) → c.playing = some w → w.entry.priority ≠ .emergency →
          s.link.outbound.length ≤ 94 → Accepts (.announce h l tp (.val p) ps r) h s s (fun _ t =>
            t.link.outbound = s.link.outbound ++ [.cut x, .play x tp .emergency ps] ∧ ∃ c' e, tget t.anc.channels x = some c' ∧
              c'.playing = some { entry := e, start := s.now, ending := later s.now tmpl.length, finishing := false } ∧
              e.template = tp ∧ e.priority = .emergency ∧ e.params = ps ∧ e.seq = c.nextSeq ∧
              (∀ q, q ∈ c'.queue ↔ q ∈ c.queue ∨
                (q = w.entry ∧ w.entry.priority = .disruption ∧ w.finishing = false)))) ∧
        (allowed = [] → ∃ area, exec (.announce h l tp (.val p) ps r) s =
          .next (replied h (refuseRights .operate area) (recordRefusal h.desk .announce .operate area s)))) ∧
      (allowed ≠ [] → Accepts (.cancelAnnounce h l tp) h s s (fun _ t => LineKept s t ∧ t.store = s.store ∧ t.inm = s.inm ∧
        AttentionBut [.linkOverrun] s t ∧
        (∀ x, x ∉ allowed → tget t.anc.channels x = tget s.anc.channels x) ∧
        ∀ x ∈ allowed, ∀ c, tget t.anc.channels x = some c →
          (∀ e ∈ c.queue, ¬ (e.origin = .desk ∧ e.desk = some h.desk ∧ e.series = some tp)) ∧
          ∀ w, c.playing = some w → ¬ (w.entry.origin = .desk ∧ w.entry.desk = some h.desk ∧ w.entry.series = some tp))) ∧
      (allowed = [] → ∃ area, exec (.cancelAnnounce h l tp) s =
        .next (replied h (refuseRights .operate area) (recordRefusal h.desk .cancelAnnounce .operate area s)))

/-- R158, R160 to R163, R168, R169: the timers of a station. A play that is complete is over, its reminder joins, and another may start; a
not-before that is reached is taken: a channel that was SILENT with that entry eligible then plays or has dropped an entry whose template is
gone, and an EMERGENCY entry that is then the first eligible cuts a play of lower priority; an entry that expires leaves its queue. No other
block changes. What a removal of an incident does at the stations, and what a departure announces at the station ahead. An event that is not
due changes nothing (the model's, log 2); the mark of a not-before taken is the model's (log 21). -/
def Obligations.AnnounceTimers : Prop :=
  (∀ (s : State) (st : Nat) (c : StationChannel), s.powered = true → s.resetPin = false → tget s.anc.channels st = some c →
    (∀ w, c.playing = some w → reached s.now w.ending = true → Happens (.playCompletion st) s s (fun t => LineKept s t ∧
      t.store = s.store ∧ t.inm = s.inm ∧ (∀ x, x ≠ st → tget t.anc.channels x = tget s.anc.channels x) ∧
      ∃ c', tget t.anc.channels st = some c' ∧ (∀ w', c'.playing = some w' → w'.start = s.now ∧ w'.finishing = false) ∧
        (w.finishing = true ∨ w.entry.reminder = none ∨ (∃ r, w.entry.reminder = some r ∧ r.remaining = .count 0) →
          c'.nextSeq = c.nextSeq) ∧
        (∀ r left, w.finishing = false → w.entry.reminder = some r → c.queue.length < 8 → 1 ≤ r.interval → r.interval < 2147483648 →
          (∃ m, r.remaining = .count (m + 1) ∧ left = .count m) ∨ (r.remaining = .untilClosed ∧ left = .untilClosed) →
          c'.nextSeq = c.nextSeq + 1 ∧ { w.entry with
            template := r.template, notBefore := some (later s.now r.interval), expiry := none
            reminder := some { r with remaining := left }, seq := c.nextSeq, notBeforeTaken := false } ∈ c'.queue))) ∧
    (c.playing = none → exec (.playCompletion st) s = .next s) ∧
    (∀ seq e d, c.queue.find? (fun e => e.seq = seq) = some e → e.notBeforeTaken = false → e.notBefore = some d →
      (reached s.now d = true → Happens (.notBeforeReached st seq) s s (fun t => LineKept s t ∧ t.store = s.store ∧ t.inm = s.inm ∧
        (∀ x, x ≠ st → tget t.anc.channels x = tget s.anc.channels x) ∧
        ∃ c', tget t.anc.channels st = some c' ∧ c'.nextSeq = c.nextSeq ∧
          (c.playing = none → e.eligible s.now = true → c'.playing ≠ none ∨ c'.queue.length < c.queue.length) ∧
          (c.playing ≠ none → e.priority ≠ .emergency → c'.playing = c.playing ∧ c'.queue.length = c.queue.length) ∧
          (∀ w, c.playing = some w → w.entry.priority ≠ .emergency → e.priority = .emergency →
            c.queue.find? (QueueEntry.eligible s.now) = some e → thas s.anc.templates e.template = true →
            Ordered (.cut st) s t ∧ ∃ w', c'.playing = some w' ∧ w'.entry = { e with notBeforeTaken := true } ∧ w'.start = s.now ∧
              (w.entry.priority = .disruption → w.finishing = false → w.entry ∈ c'.queue)))) ∧
      (reached s.now d = false → exec (.notBeforeReached st seq) s = .next s)) ∧
    (∀ seq e d, c.queue.find? (fun e => e.seq = seq) = some e → e.expiry = some d →
      (reached s.now d = true → exec (.queueEntryExpiry st seq) s = .next { s with anc := { s.anc with
        channels := tmod s.anc.channels st (fun c => { c with queue := c.queue.filter (fun e => e.seq ≠ seq) }) } }) ∧
      (reached s.now d = false → exec (.queueEntryExpiry st seq) s = .next s))) ∧
  (∀ (s t : State) (n : Nat), t = tellRemoval n s →
    (s.lds.lineState = .setup → t = s) ∧
    (s.lds.lineState = .service → t.anc.announced = s.anc.announced.filter (fun a => a.incident ≠ n) ∧
      (∀ st c, tget t.anc.channels st = some c → (∀ e ∈ c.queue, ¬ (e.origin = .incident ∧ e.incident = some n)) ∧
        ∀ w, c.playing = some w → w.entry.origin = .incident → w.entry.incident = some n → w.finishing = true) ∧
      ∀ a tp, s.anc.announced.find? (fun a => a.incident = n) = some a → a.resumed = some tp → a.stations.Nodup →
        thas s.anc.templates tp = true → ∀ st ∈ a.stations, ∀ c, tget s.anc.channels st = some c → c.queue.length < 8 →
          ∃ c', tget t.anc.channels st = some c' ∧ c'.nextSeq = c.nextSeq + 1 ∧
            ∃ e, (e ∈ c'.queue ∨ ∃ w, c'.playing = some w ∧ w.entry = e) ∧ e.template = tp ∧ e.priority = .service ∧
              e.origin = .scheduled ∧ e.params = a.params ∧ e.seq = c.nextSeq)) ∧
  ∀ (s t : State) (n q : Nat) (k : Train) (pr : Prediction) (l : LinkFields) (stop : Stop) (f : StationFields),
    t = approachOf n k (some pr) s → nextLinkOf s k = some l → q = l.toStop → tget s.lds.stops q = some stop →
    tget s.lds.stations stop.station = some f →
    (f.lead = 0 ∨ thas s.anc.templates s.anc.approach = false → t = s) ∧
    (f.lead ≠ 0 → thas s.anc.templates s.anc.approach = true →
      (∀ x, x ≠ stop.station → tget t.anc.channels x = tget s.anc.channels x) ∧
      ∀ c, tget s.anc.channels stop.station = some c → ∃ c', tget t.anc.channels stop.station = some c' ∧
        (reached s.now pr.count = true → c' = c) ∧
        (reached s.now pr.count = false → c.queue.length < 8 → c'.nextSeq = c.nextSeq + 1 ∧
          ∃ e, (e ∈ c'.queue ∨ ∃ w, c'.playing = some w ∧ w.entry = e) ∧ e.template = s.anc.approach ∧ e.priority = .routine ∧
            e.origin = .approach ∧ e.train = some n ∧ e.expiry = some pr.count ∧ e.reminder = none ∧ e.seq = c.nextSeq ∧
            e.notBefore = some (if reached s.now (pr.count - BitVec.ofNat 32 f.lead) then s.now
              else pr.count - BitVec.ofNat 32 f.lead) ∧
            (k.trip = none → e.params = [q, n]) ∧
            ∀ r trip last, k.trip = some r → findTrip s r.trip = some trip → trip.entries.getLast? = some last →
              last.bits = .clean ∨ last.bits = .unreadable → e.params = [last.coded.stop, n]))

/-! ## Invariants that every step keeps -/

/-- R178, R180: every step keeps the attention record: the pending set in priority order and without repeats, the announced highest its
first, and a waiting frame carrying both as they stand. -/
def Obligations.AttentionKept : Prop := ∀ s t : State, AttentionRecord s → step s = .next t → AttentionRecord t

/-- R30, R150, R151: every step keeps CLOCK_UNSET, the three incident categories and LINE STOP in agreement with what they follow. -/
def Obligations.SignsKept : Prop := ∀ s t : State, SignsFollow s → step s = .next t → SignsFollow t

/-- R1, R53: every step keeps each section's occupancy count equal to the number of trains located in it, with no train and no channel in
SETUP. -/
def Obligations.OccupancyKept : Prop :=
  ∀ s t : State, TablesCanonical s → SetupEmpty s → OccupancyTrue s → step s = .next t → SetupEmpty t ∧ OccupancyTrue t

/-- R5, R6, R9, R53, R149: every step keeps the tables in canonical form and the records of sections and zones with their definitions;
and, apart from that, the capacities (00, R34, R54, R124, R142, R160); and, apart from both, that the incident table never holds two entries
with the same source and location (R142). -/
def Obligations.TablesAndCapacitiesKept : Prop :=
  ∀ s t : State, step s = .next t →
    (TablesCanonical s → RecordsFollow s → TablesCanonical t ∧ RecordsFollow t) ∧ (WithinCapacities s → WithinCapacities t) ∧
      (OneEntryEach s.inm.incidents → OneEntryEach t.inm.incidents)

/-- R34, R98: every step keeps the trips in store order (a trip whose first entry is unreadable by the Sd last written, the model's, log
45), and in every zone the units in use equal to the sum of the units granted. -/
def Obligations.StoreAndUnitsKept : Prop :=
  ∀ s t : State, StoreOrdered s → UnitsBalance s → step s = .next t → StoreOrdered t ∧ UnitsBalance t

/-- R2, R5, R6, R18, R174, R183, R184, R187: every step keeps the clock in its ranges, desk 0 FULL everywhere, and the link within its
limits; and it keeps every station, section and zone in one of the areas 0 to 15. -/
def Obligations.RangesKept : Prop :=
  ∀ s t : State, step s = .next t →
    (ClockRanges s → DeskZeroFull s → LinkLimits s → ClockRanges t ∧ DeskZeroFull t ∧ LinkLimits t) ∧ (AreasInRange s → AreasInRange t)

/-- R92, R93, R96, R97, R123, R137, R140, R142, R149: every step keeps each section's effective action the strongest action in force on it,
given that the entries and the trip inputs agree, which every step keeps too; it keeps a section under DE_ENERGISE from being ENERGISING,
LIVE or PROVING and from waiting for a deferred energise; and it keeps a RELEASED train without causes, held by no desk, with a GRANTED
grant in the zone of its way, and that way LIVE, not owing 8 provings, with no isolate-on-clear pending, under neither HOLD nor DE_ENERGISE,
as it keeps each waiting request that of one HELD train with such a way. -/
def Obligations.EffectsAndReleasesKept : Prop :=
  ∀ s t : State, TablesCanonical s → step s = .next t →
    (SourcesSound s → EffectiveStrongest s → SourcesSound t ∧ EffectiveStrongest t) ∧
    (RecordsFollow s → DeEnergisedDown s → DeEnergisedDown t) ∧
    (SetupEmpty s → ReleasesSound s → RequestsSound s → ReleasesSound t ∧ RequestsSound t)

/-- The invariants hold after power-on. -/
def Obligations.ResetMeetsInvariants : Prop :=
  AttentionRecord State.reset ∧ SignsFollow State.reset ∧ SetupEmpty State.reset ∧ OccupancyTrue State.reset ∧
    TablesCanonical State.reset ∧ RecordsFollow State.reset ∧ WithinCapacities State.reset ∧ StoreOrdered State.reset ∧
    UnitsBalance State.reset ∧ ClockRanges State.reset ∧ DeskZeroFull State.reset ∧ LinkLimits State.reset ∧ SourcesSound State.reset ∧
    EffectiveStrongest State.reset ∧ AreasInRange State.reset ∧ DeEnergisedDown State.reset ∧
    ReleasesSound State.reset ∧ RequestsSound State.reset ∧ OneEntryEach State.reset.inm.incidents

/-! ## Rules over all commands -/

/-- R187: orders leave the outbound queue only when sent, or at a RESTART, a RESET or a RESYNC, and new ones join behind. -/
def Obligations.OrdersKept : Prop :=
  ∀ (c : Instr) (s t : State), exec c s = .next t → supplyOrReset c = false → c ≠ .transmitNextFrame → (∀ h, c ≠ .restart h) →
    (∀ h, c ≠ .resync h) → s.link.outbound <+: t.link.outbound

/-- R1, R10, R14: in SERVICE no command but power and RESET changes which objects are defined, how they are joined, or their areas. -/
def Obligations.StructureKept : Prop :=
  ∀ (c : Instr) (s t : State), exec c s = .next t → supplyOrReset c = false → s.lds.lineState = .service →
    (∀ n, (tget t.lds.stations n).map StationFields.area = (tget s.lds.stations n).map StationFields.area) ∧
    (∀ n, (tget t.lds.stops n).map (fun p => (p.station, p.direction, p.sect, p.nextLink)) =
      (tget s.lds.stops n).map (fun p => (p.station, p.direction, p.sect, p.nextLink))) ∧
    (∀ n, (tget t.lds.links n).map (fun k => (k.fromStop, k.toStop, k.sect)) =
      (tget s.lds.links n).map (fun k => (k.fromStop, k.toStop, k.sect))) ∧
    (∀ n, (tget t.lds.sections n).map (fun f => (f.zone, f.area)) = (tget s.lds.sections n).map (fun f => (f.zone, f.area))) ∧
    (∀ n, (tget t.lds.zones n).map Zone.area = (tget s.lds.zones n).map Zone.area) ∧
    (∀ n, (tget t.lds.merges n).map (fun m => (m.stop, m.linkA, m.linkB)) =
      (tget s.lds.merges n).map (fun m => (m.stop, m.linkA, m.linkB))) ∧
    ∀ n, thas t.lds.classes n = thas s.lds.classes n

/-- R19, R21, R52, R54, R68, R175: beside power and RESET, only a tick moves the running count, and the clock once RUNNING stays so; only
RELOAD_RIGHTS changes the rights in force; only TRAIN_ENTER makes a train record, and only TRAIN_LEAVE and RESTART remove one. -/
def Obligations.OwnersAlone : Prop :=
  ∀ (c : Instr) (s t : State), exec c s = .next t → supplyOrReset c = false →
    ((∀ l, c ≠ .tick l) → t.clock.runningCount = s.clock.runningCount) ∧
    (s.clock.state = .running → t.clock.state = .running) ∧
    ((∀ h, c ≠ .reloadRights h) → t.drt.inForce = s.drt.inForce) ∧
    (∀ n, (∀ h k p o, c ≠ .trainEnter h n k p o) → thas t.trt.trains n = true → thas s.trt.trains n = true) ∧
    (∀ n, (∀ h, c ≠ .trainLeave h n) → (∀ h, c ≠ .restart h) → thas s.trt.trains n = true → thas t.trt.trains n = true)
end

