-- ==== Sys2Proof/Laws/State.lean ====
section
/-! SUPPORT. What each named update of State leaves alone: one lemma per update and field, so that no proof unfolds a record update. -/

namespace Sys2Proof.Machine

variable (s : State)

/-! ## The Line Clock and the line description -/

@[simp] theorem modClock_powered (f : Clock → Clock) : (modClock f s).powered = s.powered := rfl
@[simp] theorem modClock_resetPin (f : Clock → Clock) : (modClock f s).resetPin = s.resetPin := rfl
@[simp] theorem modClock_tripPins (f : Clock → Clock) : (modClock f s).tripPins = s.tripPins := rfl
@[simp] theorem modClock_rxd (f : Clock → Clock) : (modClock f s).rxd = s.rxd := rfl
@[simp] theorem modClock_lds (f : Clock → Clock) : (modClock f s).lds = s.lds := rfl
@[simp] theorem modClock_store (f : Clock → Clock) : (modClock f s).store = s.store := rfl
@[simp] theorem modClock_trt (f : Clock → Clock) : (modClock f s).trt = s.trt := rfl
@[simp] theorem modClock_reg (f : Clock → Clock) : (modClock f s).reg = s.reg := rfl
@[simp] theorem modClock_gate (f : Clock → Clock) : (modClock f s).gate = s.gate := rfl
@[simp] theorem modClock_trc (f : Clock → Clock) : (modClock f s).trc = s.trc := rfl
@[simp] theorem modClock_inm (f : Clock → Clock) : (modClock f s).inm = s.inm := rfl
@[simp] theorem modClock_anc (f : Clock → Clock) : (modClock f s).anc = s.anc := rfl
@[simp] theorem modClock_drt (f : Clock → Clock) : (modClock f s).drt = s.drt := rfl
@[simp] theorem modClock_atu (f : Clock → Clock) : (modClock f s).atu = s.atu := rfl
@[simp] theorem modClock_link (f : Clock → Clock) : (modClock f s).link = s.link := rfl
@[simp] theorem modClock_scrubDue (f : Clock → Clock) : (modClock f s).scrubDue = s.scrubDue := rfl
@[simp] theorem modClock_liftDue (f : Clock → Clock) : (modClock f s).liftDue = s.liftDue := rfl
@[simp] theorem modClock_freeCount (f : Clock → Clock) : (modClock f s).freeCount = s.freeCount := rfl
@[simp] theorem modClock_pending (f : Clock → Clock) : (modClock f s).pending = s.pending := rfl

@[simp] theorem modLds_powered (f : Lds → Lds) : (modLds f s).powered = s.powered := rfl
@[simp] theorem modLds_resetPin (f : Lds → Lds) : (modLds f s).resetPin = s.resetPin := rfl
@[simp] theorem modLds_tripPins (f : Lds → Lds) : (modLds f s).tripPins = s.tripPins := rfl
@[simp] theorem modLds_rxd (f : Lds → Lds) : (modLds f s).rxd = s.rxd := rfl
@[simp] theorem modLds_clock (f : Lds → Lds) : (modLds f s).clock = s.clock := rfl
@[simp] theorem modLds_store (f : Lds → Lds) : (modLds f s).store = s.store := rfl
@[simp] theorem modLds_trt (f : Lds → Lds) : (modLds f s).trt = s.trt := rfl
@[simp] theorem modLds_reg (f : Lds → Lds) : (modLds f s).reg = s.reg := rfl
@[simp] theorem modLds_gate (f : Lds → Lds) : (modLds f s).gate = s.gate := rfl
@[simp] theorem modLds_trc (f : Lds → Lds) : (modLds f s).trc = s.trc := rfl
@[simp] theorem modLds_inm (f : Lds → Lds) : (modLds f s).inm = s.inm := rfl
@[simp] theorem modLds_anc (f : Lds → Lds) : (modLds f s).anc = s.anc := rfl
@[simp] theorem modLds_drt (f : Lds → Lds) : (modLds f s).drt = s.drt := rfl
@[simp] theorem modLds_atu (f : Lds → Lds) : (modLds f s).atu = s.atu := rfl
@[simp] theorem modLds_link (f : Lds → Lds) : (modLds f s).link = s.link := rfl
@[simp] theorem modLds_scrubDue (f : Lds → Lds) : (modLds f s).scrubDue = s.scrubDue := rfl
@[simp] theorem modLds_liftDue (f : Lds → Lds) : (modLds f s).liftDue = s.liftDue := rfl
@[simp] theorem modLds_freeCount (f : Lds → Lds) : (modLds f s).freeCount = s.freeCount := rfl
@[simp] theorem modLds_pending (f : Lds → Lds) : (modLds f s).pending = s.pending := rfl

@[simp] theorem modParams_powered (f : RegParams → RegParams) : (modParams f s).powered = s.powered := rfl
@[simp] theorem modParams_resetPin (f : RegParams → RegParams) : (modParams f s).resetPin = s.resetPin := rfl
@[simp] theorem modParams_tripPins (f : RegParams → RegParams) : (modParams f s).tripPins = s.tripPins := rfl
@[simp] theorem modParams_rxd (f : RegParams → RegParams) : (modParams f s).rxd = s.rxd := rfl
@[simp] theorem modParams_clock (f : RegParams → RegParams) : (modParams f s).clock = s.clock := rfl
@[simp] theorem modParams_lds (f : RegParams → RegParams) : (modParams f s).lds = s.lds := rfl
@[simp] theorem modParams_store (f : RegParams → RegParams) : (modParams f s).store = s.store := rfl
@[simp] theorem modParams_trt (f : RegParams → RegParams) : (modParams f s).trt = s.trt := rfl
@[simp] theorem modParams_gate (f : RegParams → RegParams) : (modParams f s).gate = s.gate := rfl
@[simp] theorem modParams_trc (f : RegParams → RegParams) : (modParams f s).trc = s.trc := rfl
@[simp] theorem modParams_inm (f : RegParams → RegParams) : (modParams f s).inm = s.inm := rfl
@[simp] theorem modParams_anc (f : RegParams → RegParams) : (modParams f s).anc = s.anc := rfl
@[simp] theorem modParams_drt (f : RegParams → RegParams) : (modParams f s).drt = s.drt := rfl
@[simp] theorem modParams_atu (f : RegParams → RegParams) : (modParams f s).atu = s.atu := rfl
@[simp] theorem modParams_link (f : RegParams → RegParams) : (modParams f s).link = s.link := rfl
@[simp] theorem modParams_scrubDue (f : RegParams → RegParams) : (modParams f s).scrubDue = s.scrubDue := rfl
@[simp] theorem modParams_liftDue (f : RegParams → RegParams) : (modParams f s).liftDue = s.liftDue := rfl
@[simp] theorem modParams_freeCount (f : RegParams → RegParams) : (modParams f s).freeCount = s.freeCount := rfl
@[simp] theorem modParams_pending (f : RegParams → RegParams) : (modParams f s).pending = s.pending := rfl

@[simp] theorem setPin_powered (n : Nat) (on : Bool) : (setPin n on s).powered = s.powered := rfl
@[simp] theorem setPin_resetPin (n : Nat) (on : Bool) : (setPin n on s).resetPin = s.resetPin := rfl
@[simp] theorem setPin_rxd (n : Nat) (on : Bool) : (setPin n on s).rxd = s.rxd := rfl
@[simp] theorem setPin_clock (n : Nat) (on : Bool) : (setPin n on s).clock = s.clock := rfl
@[simp] theorem setPin_lds (n : Nat) (on : Bool) : (setPin n on s).lds = s.lds := rfl
@[simp] theorem setPin_store (n : Nat) (on : Bool) : (setPin n on s).store = s.store := rfl
@[simp] theorem setPin_trt (n : Nat) (on : Bool) : (setPin n on s).trt = s.trt := rfl
@[simp] theorem setPin_reg (n : Nat) (on : Bool) : (setPin n on s).reg = s.reg := rfl
@[simp] theorem setPin_gate (n : Nat) (on : Bool) : (setPin n on s).gate = s.gate := rfl
@[simp] theorem setPin_trc (n : Nat) (on : Bool) : (setPin n on s).trc = s.trc := rfl
@[simp] theorem setPin_inm (n : Nat) (on : Bool) : (setPin n on s).inm = s.inm := rfl
@[simp] theorem setPin_anc (n : Nat) (on : Bool) : (setPin n on s).anc = s.anc := rfl
@[simp] theorem setPin_drt (n : Nat) (on : Bool) : (setPin n on s).drt = s.drt := rfl
@[simp] theorem setPin_atu (n : Nat) (on : Bool) : (setPin n on s).atu = s.atu := rfl
@[simp] theorem setPin_link (n : Nat) (on : Bool) : (setPin n on s).link = s.link := rfl
@[simp] theorem setPin_scrubDue (n : Nat) (on : Bool) : (setPin n on s).scrubDue = s.scrubDue := rfl
@[simp] theorem setPin_liftDue (n : Nat) (on : Bool) : (setPin n on s).liftDue = s.liftDue := rfl
@[simp] theorem setPin_freeCount (n : Nat) (on : Bool) : (setPin n on s).freeCount = s.freeCount := rfl
@[simp] theorem setPin_pending (n : Nat) (on : Bool) : (setPin n on s).pending = s.pending := rfl

/-! ## The Timetable Store -/

@[simp] theorem mapTrips_powered (f : Trip → Trip) : (mapTrips f s).powered = s.powered := rfl
@[simp] theorem mapTrips_resetPin (f : Trip → Trip) : (mapTrips f s).resetPin = s.resetPin := rfl
@[simp] theorem mapTrips_tripPins (f : Trip → Trip) : (mapTrips f s).tripPins = s.tripPins := rfl
@[simp] theorem mapTrips_rxd (f : Trip → Trip) : (mapTrips f s).rxd = s.rxd := rfl
@[simp] theorem mapTrips_clock (f : Trip → Trip) : (mapTrips f s).clock = s.clock := rfl
@[simp] theorem mapTrips_lds (f : Trip → Trip) : (mapTrips f s).lds = s.lds := rfl
@[simp] theorem mapTrips_trt (f : Trip → Trip) : (mapTrips f s).trt = s.trt := rfl
@[simp] theorem mapTrips_reg (f : Trip → Trip) : (mapTrips f s).reg = s.reg := rfl
@[simp] theorem mapTrips_gate (f : Trip → Trip) : (mapTrips f s).gate = s.gate := rfl
@[simp] theorem mapTrips_trc (f : Trip → Trip) : (mapTrips f s).trc = s.trc := rfl
@[simp] theorem mapTrips_inm (f : Trip → Trip) : (mapTrips f s).inm = s.inm := rfl
@[simp] theorem mapTrips_anc (f : Trip → Trip) : (mapTrips f s).anc = s.anc := rfl
@[simp] theorem mapTrips_drt (f : Trip → Trip) : (mapTrips f s).drt = s.drt := rfl
@[simp] theorem mapTrips_atu (f : Trip → Trip) : (mapTrips f s).atu = s.atu := rfl
@[simp] theorem mapTrips_link (f : Trip → Trip) : (mapTrips f s).link = s.link := rfl
@[simp] theorem mapTrips_scrubDue (f : Trip → Trip) : (mapTrips f s).scrubDue = s.scrubDue := rfl
@[simp] theorem mapTrips_liftDue (f : Trip → Trip) : (mapTrips f s).liftDue = s.liftDue := rfl
@[simp] theorem mapTrips_freeCount (f : Trip → Trip) : (mapTrips f s).freeCount = s.freeCount := rfl
@[simp] theorem mapTrips_pending (f : Trip → Trip) : (mapTrips f s).pending = s.pending := rfl

@[simp] theorem modTrip_powered (n : Nat) (f : Trip → Trip) : (modTrip n f s).powered = s.powered := rfl
@[simp] theorem modTrip_resetPin (n : Nat) (f : Trip → Trip) : (modTrip n f s).resetPin = s.resetPin := rfl
@[simp] theorem modTrip_tripPins (n : Nat) (f : Trip → Trip) : (modTrip n f s).tripPins = s.tripPins := rfl
@[simp] theorem modTrip_rxd (n : Nat) (f : Trip → Trip) : (modTrip n f s).rxd = s.rxd := rfl
@[simp] theorem modTrip_clock (n : Nat) (f : Trip → Trip) : (modTrip n f s).clock = s.clock := rfl
@[simp] theorem modTrip_lds (n : Nat) (f : Trip → Trip) : (modTrip n f s).lds = s.lds := rfl
@[simp] theorem modTrip_trt (n : Nat) (f : Trip → Trip) : (modTrip n f s).trt = s.trt := rfl
@[simp] theorem modTrip_reg (n : Nat) (f : Trip → Trip) : (modTrip n f s).reg = s.reg := rfl
@[simp] theorem modTrip_gate (n : Nat) (f : Trip → Trip) : (modTrip n f s).gate = s.gate := rfl
@[simp] theorem modTrip_trc (n : Nat) (f : Trip → Trip) : (modTrip n f s).trc = s.trc := rfl
@[simp] theorem modTrip_inm (n : Nat) (f : Trip → Trip) : (modTrip n f s).inm = s.inm := rfl
@[simp] theorem modTrip_anc (n : Nat) (f : Trip → Trip) : (modTrip n f s).anc = s.anc := rfl
@[simp] theorem modTrip_drt (n : Nat) (f : Trip → Trip) : (modTrip n f s).drt = s.drt := rfl
@[simp] theorem modTrip_atu (n : Nat) (f : Trip → Trip) : (modTrip n f s).atu = s.atu := rfl
@[simp] theorem modTrip_link (n : Nat) (f : Trip → Trip) : (modTrip n f s).link = s.link := rfl
@[simp] theorem modTrip_scrubDue (n : Nat) (f : Trip → Trip) : (modTrip n f s).scrubDue = s.scrubDue := rfl
@[simp] theorem modTrip_liftDue (n : Nat) (f : Trip → Trip) : (modTrip n f s).liftDue = s.liftDue := rfl
@[simp] theorem modTrip_freeCount (n : Nat) (f : Trip → Trip) : (modTrip n f s).freeCount = s.freeCount := rfl
@[simp] theorem modTrip_pending (n : Nat) (f : Trip → Trip) : (modTrip n f s).pending = s.pending := rfl

@[simp] theorem modEntry_powered (n i : Nat) (f : Entry → Entry) : (modEntry n i f s).powered = s.powered := rfl
@[simp] theorem modEntry_resetPin (n i : Nat) (f : Entry → Entry) : (modEntry n i f s).resetPin = s.resetPin := rfl
@[simp] theorem modEntry_tripPins (n i : Nat) (f : Entry → Entry) : (modEntry n i f s).tripPins = s.tripPins := rfl
@[simp] theorem modEntry_rxd (n i : Nat) (f : Entry → Entry) : (modEntry n i f s).rxd = s.rxd := rfl
@[simp] theorem modEntry_clock (n i : Nat) (f : Entry → Entry) : (modEntry n i f s).clock = s.clock := rfl
@[simp] theorem modEntry_lds (n i : Nat) (f : Entry → Entry) : (modEntry n i f s).lds = s.lds := rfl
@[simp] theorem modEntry_trt (n i : Nat) (f : Entry → Entry) : (modEntry n i f s).trt = s.trt := rfl
@[simp] theorem modEntry_reg (n i : Nat) (f : Entry → Entry) : (modEntry n i f s).reg = s.reg := rfl
@[simp] theorem modEntry_gate (n i : Nat) (f : Entry → Entry) : (modEntry n i f s).gate = s.gate := rfl
@[simp] theorem modEntry_trc (n i : Nat) (f : Entry → Entry) : (modEntry n i f s).trc = s.trc := rfl
@[simp] theorem modEntry_inm (n i : Nat) (f : Entry → Entry) : (modEntry n i f s).inm = s.inm := rfl
@[simp] theorem modEntry_anc (n i : Nat) (f : Entry → Entry) : (modEntry n i f s).anc = s.anc := rfl
@[simp] theorem modEntry_drt (n i : Nat) (f : Entry → Entry) : (modEntry n i f s).drt = s.drt := rfl
@[simp] theorem modEntry_atu (n i : Nat) (f : Entry → Entry) : (modEntry n i f s).atu = s.atu := rfl
@[simp] theorem modEntry_link (n i : Nat) (f : Entry → Entry) : (modEntry n i f s).link = s.link := rfl
@[simp] theorem modEntry_scrubDue (n i : Nat) (f : Entry → Entry) : (modEntry n i f s).scrubDue = s.scrubDue := rfl
@[simp] theorem modEntry_liftDue (n i : Nat) (f : Entry → Entry) : (modEntry n i f s).liftDue = s.liftDue := rfl
@[simp] theorem modEntry_freeCount (n i : Nat) (f : Entry → Entry) : (modEntry n i f s).freeCount = s.freeCount := rfl
@[simp] theorem modEntry_pending (n i : Nat) (f : Entry → Entry) : (modEntry n i f s).pending = s.pending := rfl

@[simp] theorem startRun_powered (n train i : Nat) : (startRun n train i s).powered = s.powered := rfl
@[simp] theorem startRun_resetPin (n train i : Nat) : (startRun n train i s).resetPin = s.resetPin := rfl
@[simp] theorem startRun_tripPins (n train i : Nat) : (startRun n train i s).tripPins = s.tripPins := rfl
@[simp] theorem startRun_rxd (n train i : Nat) : (startRun n train i s).rxd = s.rxd := rfl
@[simp] theorem startRun_clock (n train i : Nat) : (startRun n train i s).clock = s.clock := rfl
@[simp] theorem startRun_lds (n train i : Nat) : (startRun n train i s).lds = s.lds := rfl
@[simp] theorem startRun_trt (n train i : Nat) : (startRun n train i s).trt = s.trt := rfl
@[simp] theorem startRun_reg (n train i : Nat) : (startRun n train i s).reg = s.reg := rfl
@[simp] theorem startRun_gate (n train i : Nat) : (startRun n train i s).gate = s.gate := rfl
@[simp] theorem startRun_trc (n train i : Nat) : (startRun n train i s).trc = s.trc := rfl
@[simp] theorem startRun_inm (n train i : Nat) : (startRun n train i s).inm = s.inm := rfl
@[simp] theorem startRun_anc (n train i : Nat) : (startRun n train i s).anc = s.anc := rfl
@[simp] theorem startRun_drt (n train i : Nat) : (startRun n train i s).drt = s.drt := rfl
@[simp] theorem startRun_atu (n train i : Nat) : (startRun n train i s).atu = s.atu := rfl
@[simp] theorem startRun_link (n train i : Nat) : (startRun n train i s).link = s.link := rfl
@[simp] theorem startRun_scrubDue (n train i : Nat) : (startRun n train i s).scrubDue = s.scrubDue := rfl
@[simp] theorem startRun_liftDue (n train i : Nat) : (startRun n train i s).liftDue = s.liftDue := rfl
@[simp] theorem startRun_freeCount (n train i : Nat) : (startRun n train i s).freeCount = s.freeCount := rfl
@[simp] theorem startRun_pending (n train i : Nat) : (startRun n train i s).pending = s.pending := rfl

@[simp] theorem callEntry_powered (n i : Nat) : (callEntry n i s).powered = s.powered := rfl
@[simp] theorem callEntry_resetPin (n i : Nat) : (callEntry n i s).resetPin = s.resetPin := rfl
@[simp] theorem callEntry_tripPins (n i : Nat) : (callEntry n i s).tripPins = s.tripPins := rfl
@[simp] theorem callEntry_rxd (n i : Nat) : (callEntry n i s).rxd = s.rxd := rfl
@[simp] theorem callEntry_clock (n i : Nat) : (callEntry n i s).clock = s.clock := rfl
@[simp] theorem callEntry_lds (n i : Nat) : (callEntry n i s).lds = s.lds := rfl
@[simp] theorem callEntry_trt (n i : Nat) : (callEntry n i s).trt = s.trt := rfl
@[simp] theorem callEntry_reg (n i : Nat) : (callEntry n i s).reg = s.reg := rfl
@[simp] theorem callEntry_gate (n i : Nat) : (callEntry n i s).gate = s.gate := rfl
@[simp] theorem callEntry_trc (n i : Nat) : (callEntry n i s).trc = s.trc := rfl
@[simp] theorem callEntry_inm (n i : Nat) : (callEntry n i s).inm = s.inm := rfl
@[simp] theorem callEntry_anc (n i : Nat) : (callEntry n i s).anc = s.anc := rfl
@[simp] theorem callEntry_drt (n i : Nat) : (callEntry n i s).drt = s.drt := rfl
@[simp] theorem callEntry_atu (n i : Nat) : (callEntry n i s).atu = s.atu := rfl
@[simp] theorem callEntry_link (n i : Nat) : (callEntry n i s).link = s.link := rfl
@[simp] theorem callEntry_scrubDue (n i : Nat) : (callEntry n i s).scrubDue = s.scrubDue := rfl
@[simp] theorem callEntry_liftDue (n i : Nat) : (callEntry n i s).liftDue = s.liftDue := rfl
@[simp] theorem callEntry_freeCount (n i : Nat) : (callEntry n i s).freeCount = s.freeCount := rfl
@[simp] theorem callEntry_pending (n i : Nat) : (callEntry n i s).pending = s.pending := rfl

@[simp] theorem skipEntries_powered (n i j : Nat) : (skipEntries n i j s).powered = s.powered := rfl
@[simp] theorem skipEntries_resetPin (n i j : Nat) : (skipEntries n i j s).resetPin = s.resetPin := rfl
@[simp] theorem skipEntries_tripPins (n i j : Nat) : (skipEntries n i j s).tripPins = s.tripPins := rfl
@[simp] theorem skipEntries_rxd (n i j : Nat) : (skipEntries n i j s).rxd = s.rxd := rfl
@[simp] theorem skipEntries_clock (n i j : Nat) : (skipEntries n i j s).clock = s.clock := rfl
@[simp] theorem skipEntries_lds (n i j : Nat) : (skipEntries n i j s).lds = s.lds := rfl
@[simp] theorem skipEntries_trt (n i j : Nat) : (skipEntries n i j s).trt = s.trt := rfl
@[simp] theorem skipEntries_reg (n i j : Nat) : (skipEntries n i j s).reg = s.reg := rfl
@[simp] theorem skipEntries_gate (n i j : Nat) : (skipEntries n i j s).gate = s.gate := rfl
@[simp] theorem skipEntries_trc (n i j : Nat) : (skipEntries n i j s).trc = s.trc := rfl
@[simp] theorem skipEntries_inm (n i j : Nat) : (skipEntries n i j s).inm = s.inm := rfl
@[simp] theorem skipEntries_anc (n i j : Nat) : (skipEntries n i j s).anc = s.anc := rfl
@[simp] theorem skipEntries_drt (n i j : Nat) : (skipEntries n i j s).drt = s.drt := rfl
@[simp] theorem skipEntries_atu (n i j : Nat) : (skipEntries n i j s).atu = s.atu := rfl
@[simp] theorem skipEntries_link (n i j : Nat) : (skipEntries n i j s).link = s.link := rfl
@[simp] theorem skipEntries_scrubDue (n i j : Nat) : (skipEntries n i j s).scrubDue = s.scrubDue := rfl
@[simp] theorem skipEntries_liftDue (n i j : Nat) : (skipEntries n i j s).liftDue = s.liftDue := rfl
@[simp] theorem skipEntries_freeCount (n i j : Nat) : (skipEntries n i j s).freeCount = s.freeCount := rfl
@[simp] theorem skipEntries_pending (n i j : Nat) : (skipEntries n i j s).pending = s.pending := rfl

@[simp] theorem endRun_powered (n : Nat) (how : RunState) : (endRun n how s).powered = s.powered := rfl
@[simp] theorem endRun_resetPin (n : Nat) (how : RunState) : (endRun n how s).resetPin = s.resetPin := rfl
@[simp] theorem endRun_tripPins (n : Nat) (how : RunState) : (endRun n how s).tripPins = s.tripPins := rfl
@[simp] theorem endRun_rxd (n : Nat) (how : RunState) : (endRun n how s).rxd = s.rxd := rfl
@[simp] theorem endRun_clock (n : Nat) (how : RunState) : (endRun n how s).clock = s.clock := rfl
@[simp] theorem endRun_lds (n : Nat) (how : RunState) : (endRun n how s).lds = s.lds := rfl
@[simp] theorem endRun_trt (n : Nat) (how : RunState) : (endRun n how s).trt = s.trt := rfl
@[simp] theorem endRun_reg (n : Nat) (how : RunState) : (endRun n how s).reg = s.reg := rfl
@[simp] theorem endRun_gate (n : Nat) (how : RunState) : (endRun n how s).gate = s.gate := rfl
@[simp] theorem endRun_trc (n : Nat) (how : RunState) : (endRun n how s).trc = s.trc := rfl
@[simp] theorem endRun_inm (n : Nat) (how : RunState) : (endRun n how s).inm = s.inm := rfl
@[simp] theorem endRun_anc (n : Nat) (how : RunState) : (endRun n how s).anc = s.anc := rfl
@[simp] theorem endRun_drt (n : Nat) (how : RunState) : (endRun n how s).drt = s.drt := rfl
@[simp] theorem endRun_atu (n : Nat) (how : RunState) : (endRun n how s).atu = s.atu := rfl
@[simp] theorem endRun_link (n : Nat) (how : RunState) : (endRun n how s).link = s.link := rfl
@[simp] theorem endRun_scrubDue (n : Nat) (how : RunState) : (endRun n how s).scrubDue = s.scrubDue := rfl
@[simp] theorem endRun_liftDue (n : Nat) (how : RunState) : (endRun n how s).liftDue = s.liftDue := rfl
@[simp] theorem endRun_freeCount (n : Nat) (how : RunState) : (endRun n how s).freeCount = s.freeCount := rfl
@[simp] theorem endRun_pending (n : Nat) (how : RunState) : (endRun n how s).pending = s.pending := rfl

@[simp] theorem dailyReset_powered : (dailyReset s).powered = s.powered := rfl
@[simp] theorem dailyReset_resetPin : (dailyReset s).resetPin = s.resetPin := rfl
@[simp] theorem dailyReset_tripPins : (dailyReset s).tripPins = s.tripPins := rfl
@[simp] theorem dailyReset_rxd : (dailyReset s).rxd = s.rxd := rfl
@[simp] theorem dailyReset_clock : (dailyReset s).clock = s.clock := rfl
@[simp] theorem dailyReset_lds : (dailyReset s).lds = s.lds := rfl
@[simp] theorem dailyReset_trt : (dailyReset s).trt = s.trt := rfl
@[simp] theorem dailyReset_reg : (dailyReset s).reg = s.reg := rfl
@[simp] theorem dailyReset_gate : (dailyReset s).gate = s.gate := rfl
@[simp] theorem dailyReset_trc : (dailyReset s).trc = s.trc := rfl
@[simp] theorem dailyReset_inm : (dailyReset s).inm = s.inm := rfl
@[simp] theorem dailyReset_anc : (dailyReset s).anc = s.anc := rfl
@[simp] theorem dailyReset_drt : (dailyReset s).drt = s.drt := rfl
@[simp] theorem dailyReset_atu : (dailyReset s).atu = s.atu := rfl
@[simp] theorem dailyReset_link : (dailyReset s).link = s.link := rfl
@[simp] theorem dailyReset_scrubDue : (dailyReset s).scrubDue = s.scrubDue := rfl
@[simp] theorem dailyReset_liftDue : (dailyReset s).liftDue = s.liftDue := rfl
@[simp] theorem dailyReset_freeCount : (dailyReset s).freeCount = s.freeCount := rfl
@[simp] theorem dailyReset_pending : (dailyReset s).pending = s.pending := rfl

@[simp] theorem storeTrip_powered (t : TripFields) : (storeTrip t s).powered = s.powered := rfl
@[simp] theorem storeTrip_resetPin (t : TripFields) : (storeTrip t s).resetPin = s.resetPin := rfl
@[simp] theorem storeTrip_tripPins (t : TripFields) : (storeTrip t s).tripPins = s.tripPins := rfl
@[simp] theorem storeTrip_rxd (t : TripFields) : (storeTrip t s).rxd = s.rxd := rfl
@[simp] theorem storeTrip_clock (t : TripFields) : (storeTrip t s).clock = s.clock := rfl
@[simp] theorem storeTrip_lds (t : TripFields) : (storeTrip t s).lds = s.lds := rfl
@[simp] theorem storeTrip_trt (t : TripFields) : (storeTrip t s).trt = s.trt := rfl
@[simp] theorem storeTrip_reg (t : TripFields) : (storeTrip t s).reg = s.reg := rfl
@[simp] theorem storeTrip_gate (t : TripFields) : (storeTrip t s).gate = s.gate := rfl
@[simp] theorem storeTrip_trc (t : TripFields) : (storeTrip t s).trc = s.trc := rfl
@[simp] theorem storeTrip_inm (t : TripFields) : (storeTrip t s).inm = s.inm := rfl
@[simp] theorem storeTrip_anc (t : TripFields) : (storeTrip t s).anc = s.anc := rfl
@[simp] theorem storeTrip_drt (t : TripFields) : (storeTrip t s).drt = s.drt := rfl
@[simp] theorem storeTrip_atu (t : TripFields) : (storeTrip t s).atu = s.atu := rfl
@[simp] theorem storeTrip_link (t : TripFields) : (storeTrip t s).link = s.link := rfl
@[simp] theorem storeTrip_scrubDue (t : TripFields) : (storeTrip t s).scrubDue = s.scrubDue := rfl
@[simp] theorem storeTrip_liftDue (t : TripFields) : (storeTrip t s).liftDue = s.liftDue := rfl
@[simp] theorem storeTrip_freeCount (t : TripFields) : (storeTrip t s).freeCount = s.freeCount := rfl
@[simp] theorem storeTrip_pending (t : TripFields) : (storeTrip t s).pending = s.pending := rfl

/-! ## The Train Table, the Regulator and the Departure Gate -/

@[simp] theorem modTrain_powered (n : Nat) (f : Train → Train) : (modTrain n f s).powered = s.powered := rfl
@[simp] theorem modTrain_resetPin (n : Nat) (f : Train → Train) : (modTrain n f s).resetPin = s.resetPin := rfl
@[simp] theorem modTrain_tripPins (n : Nat) (f : Train → Train) : (modTrain n f s).tripPins = s.tripPins := rfl
@[simp] theorem modTrain_rxd (n : Nat) (f : Train → Train) : (modTrain n f s).rxd = s.rxd := rfl
@[simp] theorem modTrain_clock (n : Nat) (f : Train → Train) : (modTrain n f s).clock = s.clock := rfl
@[simp] theorem modTrain_lds (n : Nat) (f : Train → Train) : (modTrain n f s).lds = s.lds := rfl
@[simp] theorem modTrain_store (n : Nat) (f : Train → Train) : (modTrain n f s).store = s.store := rfl
@[simp] theorem modTrain_reg (n : Nat) (f : Train → Train) : (modTrain n f s).reg = s.reg := rfl
@[simp] theorem modTrain_gate (n : Nat) (f : Train → Train) : (modTrain n f s).gate = s.gate := rfl
@[simp] theorem modTrain_trc (n : Nat) (f : Train → Train) : (modTrain n f s).trc = s.trc := rfl
@[simp] theorem modTrain_inm (n : Nat) (f : Train → Train) : (modTrain n f s).inm = s.inm := rfl
@[simp] theorem modTrain_anc (n : Nat) (f : Train → Train) : (modTrain n f s).anc = s.anc := rfl
@[simp] theorem modTrain_drt (n : Nat) (f : Train → Train) : (modTrain n f s).drt = s.drt := rfl
@[simp] theorem modTrain_atu (n : Nat) (f : Train → Train) : (modTrain n f s).atu = s.atu := rfl
@[simp] theorem modTrain_link (n : Nat) (f : Train → Train) : (modTrain n f s).link = s.link := rfl
@[simp] theorem modTrain_scrubDue (n : Nat) (f : Train → Train) : (modTrain n f s).scrubDue = s.scrubDue := rfl
@[simp] theorem modTrain_liftDue (n : Nat) (f : Train → Train) : (modTrain n f s).liftDue = s.liftDue := rfl
@[simp] theorem modTrain_freeCount (n : Nat) (f : Train → Train) : (modTrain n f s).freeCount = s.freeCount := rfl
@[simp] theorem modTrain_pending (n : Nat) (f : Train → Train) : (modTrain n f s).pending = s.pending := rfl

@[simp] theorem unschedule_powered (n : Nat) : (unschedule n s).powered = s.powered := rfl
@[simp] theorem unschedule_resetPin (n : Nat) : (unschedule n s).resetPin = s.resetPin := rfl
@[simp] theorem unschedule_tripPins (n : Nat) : (unschedule n s).tripPins = s.tripPins := rfl
@[simp] theorem unschedule_rxd (n : Nat) : (unschedule n s).rxd = s.rxd := rfl
@[simp] theorem unschedule_clock (n : Nat) : (unschedule n s).clock = s.clock := rfl
@[simp] theorem unschedule_lds (n : Nat) : (unschedule n s).lds = s.lds := rfl
@[simp] theorem unschedule_store (n : Nat) : (unschedule n s).store = s.store := rfl
@[simp] theorem unschedule_reg (n : Nat) : (unschedule n s).reg = s.reg := rfl
@[simp] theorem unschedule_gate (n : Nat) : (unschedule n s).gate = s.gate := rfl
@[simp] theorem unschedule_trc (n : Nat) : (unschedule n s).trc = s.trc := rfl
@[simp] theorem unschedule_inm (n : Nat) : (unschedule n s).inm = s.inm := rfl
@[simp] theorem unschedule_anc (n : Nat) : (unschedule n s).anc = s.anc := rfl
@[simp] theorem unschedule_drt (n : Nat) : (unschedule n s).drt = s.drt := rfl
@[simp] theorem unschedule_atu (n : Nat) : (unschedule n s).atu = s.atu := rfl
@[simp] theorem unschedule_link (n : Nat) : (unschedule n s).link = s.link := rfl
@[simp] theorem unschedule_scrubDue (n : Nat) : (unschedule n s).scrubDue = s.scrubDue := rfl
@[simp] theorem unschedule_liftDue (n : Nat) : (unschedule n s).liftDue = s.liftDue := rfl
@[simp] theorem unschedule_freeCount (n : Nat) : (unschedule n s).freeCount = s.freeCount := rfl
@[simp] theorem unschedule_pending (n : Nat) : (unschedule n s).pending = s.pending := rfl

@[simp] theorem joinTrip_powered (n m i : Nat) : (joinTrip n m i s).powered = s.powered := rfl
@[simp] theorem joinTrip_resetPin (n m i : Nat) : (joinTrip n m i s).resetPin = s.resetPin := rfl
@[simp] theorem joinTrip_tripPins (n m i : Nat) : (joinTrip n m i s).tripPins = s.tripPins := rfl
@[simp] theorem joinTrip_rxd (n m i : Nat) : (joinTrip n m i s).rxd = s.rxd := rfl
@[simp] theorem joinTrip_clock (n m i : Nat) : (joinTrip n m i s).clock = s.clock := rfl
@[simp] theorem joinTrip_lds (n m i : Nat) : (joinTrip n m i s).lds = s.lds := rfl
@[simp] theorem joinTrip_reg (n m i : Nat) : (joinTrip n m i s).reg = s.reg := rfl
@[simp] theorem joinTrip_gate (n m i : Nat) : (joinTrip n m i s).gate = s.gate := rfl
@[simp] theorem joinTrip_trc (n m i : Nat) : (joinTrip n m i s).trc = s.trc := rfl
@[simp] theorem joinTrip_inm (n m i : Nat) : (joinTrip n m i s).inm = s.inm := rfl
@[simp] theorem joinTrip_anc (n m i : Nat) : (joinTrip n m i s).anc = s.anc := rfl
@[simp] theorem joinTrip_drt (n m i : Nat) : (joinTrip n m i s).drt = s.drt := rfl
@[simp] theorem joinTrip_atu (n m i : Nat) : (joinTrip n m i s).atu = s.atu := rfl
@[simp] theorem joinTrip_link (n m i : Nat) : (joinTrip n m i s).link = s.link := rfl
@[simp] theorem joinTrip_scrubDue (n m i : Nat) : (joinTrip n m i s).scrubDue = s.scrubDue := rfl
@[simp] theorem joinTrip_liftDue (n m i : Nat) : (joinTrip n m i s).liftDue = s.liftDue := rfl
@[simp] theorem joinTrip_freeCount (n m i : Nat) : (joinTrip n m i s).freeCount = s.freeCount := rfl
@[simp] theorem joinTrip_pending (n m i : Nat) : (joinTrip n m i s).pending = s.pending := rfl

@[simp] theorem writeCauses_powered (n : Nat) (l : List Cause) : (writeCauses n l s).powered = s.powered := rfl
@[simp] theorem writeCauses_resetPin (n : Nat) (l : List Cause) : (writeCauses n l s).resetPin = s.resetPin := rfl
@[simp] theorem writeCauses_tripPins (n : Nat) (l : List Cause) : (writeCauses n l s).tripPins = s.tripPins := rfl
@[simp] theorem writeCauses_rxd (n : Nat) (l : List Cause) : (writeCauses n l s).rxd = s.rxd := rfl
@[simp] theorem writeCauses_clock (n : Nat) (l : List Cause) : (writeCauses n l s).clock = s.clock := rfl
@[simp] theorem writeCauses_lds (n : Nat) (l : List Cause) : (writeCauses n l s).lds = s.lds := rfl
@[simp] theorem writeCauses_store (n : Nat) (l : List Cause) : (writeCauses n l s).store = s.store := rfl
@[simp] theorem writeCauses_reg (n : Nat) (l : List Cause) : (writeCauses n l s).reg = s.reg := rfl
@[simp] theorem writeCauses_gate (n : Nat) (l : List Cause) : (writeCauses n l s).gate = s.gate := rfl
@[simp] theorem writeCauses_trc (n : Nat) (l : List Cause) : (writeCauses n l s).trc = s.trc := rfl
@[simp] theorem writeCauses_inm (n : Nat) (l : List Cause) : (writeCauses n l s).inm = s.inm := rfl
@[simp] theorem writeCauses_anc (n : Nat) (l : List Cause) : (writeCauses n l s).anc = s.anc := rfl
@[simp] theorem writeCauses_drt (n : Nat) (l : List Cause) : (writeCauses n l s).drt = s.drt := rfl
@[simp] theorem writeCauses_atu (n : Nat) (l : List Cause) : (writeCauses n l s).atu = s.atu := rfl
@[simp] theorem writeCauses_link (n : Nat) (l : List Cause) : (writeCauses n l s).link = s.link := rfl
@[simp] theorem writeCauses_scrubDue (n : Nat) (l : List Cause) : (writeCauses n l s).scrubDue = s.scrubDue := rfl
@[simp] theorem writeCauses_liftDue (n : Nat) (l : List Cause) : (writeCauses n l s).liftDue = s.liftDue := rfl
@[simp] theorem writeCauses_freeCount (n : Nat) (l : List Cause) : (writeCauses n l s).freeCount = s.freeCount := rfl
@[simp] theorem writeCauses_pending (n : Nat) (l : List Cause) : (writeCauses n l s).pending = s.pending := rfl

@[simp] theorem addOccupant_powered (x : Nat) : (addOccupant x s).powered = s.powered := rfl
@[simp] theorem addOccupant_resetPin (x : Nat) : (addOccupant x s).resetPin = s.resetPin := rfl
@[simp] theorem addOccupant_tripPins (x : Nat) : (addOccupant x s).tripPins = s.tripPins := rfl
@[simp] theorem addOccupant_rxd (x : Nat) : (addOccupant x s).rxd = s.rxd := rfl
@[simp] theorem addOccupant_clock (x : Nat) : (addOccupant x s).clock = s.clock := rfl
@[simp] theorem addOccupant_lds (x : Nat) : (addOccupant x s).lds = s.lds := rfl
@[simp] theorem addOccupant_store (x : Nat) : (addOccupant x s).store = s.store := rfl
@[simp] theorem addOccupant_reg (x : Nat) : (addOccupant x s).reg = s.reg := rfl
@[simp] theorem addOccupant_gate (x : Nat) : (addOccupant x s).gate = s.gate := rfl
@[simp] theorem addOccupant_trc (x : Nat) : (addOccupant x s).trc = s.trc := rfl
@[simp] theorem addOccupant_inm (x : Nat) : (addOccupant x s).inm = s.inm := rfl
@[simp] theorem addOccupant_anc (x : Nat) : (addOccupant x s).anc = s.anc := rfl
@[simp] theorem addOccupant_drt (x : Nat) : (addOccupant x s).drt = s.drt := rfl
@[simp] theorem addOccupant_atu (x : Nat) : (addOccupant x s).atu = s.atu := rfl
@[simp] theorem addOccupant_link (x : Nat) : (addOccupant x s).link = s.link := rfl
@[simp] theorem addOccupant_scrubDue (x : Nat) : (addOccupant x s).scrubDue = s.scrubDue := rfl
@[simp] theorem addOccupant_liftDue (x : Nat) : (addOccupant x s).liftDue = s.liftDue := rfl
@[simp] theorem addOccupant_freeCount (x : Nat) : (addOccupant x s).freeCount = s.freeCount := rfl
@[simp] theorem addOccupant_pending (x : Nat) : (addOccupant x s).pending = s.pending := rfl

@[simp] theorem takeOccupant_powered (x : Nat) : (takeOccupant x s).powered = s.powered := rfl
@[simp] theorem takeOccupant_resetPin (x : Nat) : (takeOccupant x s).resetPin = s.resetPin := rfl
@[simp] theorem takeOccupant_tripPins (x : Nat) : (takeOccupant x s).tripPins = s.tripPins := rfl
@[simp] theorem takeOccupant_rxd (x : Nat) : (takeOccupant x s).rxd = s.rxd := rfl
@[simp] theorem takeOccupant_clock (x : Nat) : (takeOccupant x s).clock = s.clock := rfl
@[simp] theorem takeOccupant_lds (x : Nat) : (takeOccupant x s).lds = s.lds := rfl
@[simp] theorem takeOccupant_store (x : Nat) : (takeOccupant x s).store = s.store := rfl
@[simp] theorem takeOccupant_reg (x : Nat) : (takeOccupant x s).reg = s.reg := rfl
@[simp] theorem takeOccupant_gate (x : Nat) : (takeOccupant x s).gate = s.gate := rfl
@[simp] theorem takeOccupant_trc (x : Nat) : (takeOccupant x s).trc = s.trc := rfl
@[simp] theorem takeOccupant_inm (x : Nat) : (takeOccupant x s).inm = s.inm := rfl
@[simp] theorem takeOccupant_anc (x : Nat) : (takeOccupant x s).anc = s.anc := rfl
@[simp] theorem takeOccupant_drt (x : Nat) : (takeOccupant x s).drt = s.drt := rfl
@[simp] theorem takeOccupant_atu (x : Nat) : (takeOccupant x s).atu = s.atu := rfl
@[simp] theorem takeOccupant_link (x : Nat) : (takeOccupant x s).link = s.link := rfl
@[simp] theorem takeOccupant_scrubDue (x : Nat) : (takeOccupant x s).scrubDue = s.scrubDue := rfl
@[simp] theorem takeOccupant_liftDue (x : Nat) : (takeOccupant x s).liftDue = s.liftDue := rfl
@[simp] theorem takeOccupant_freeCount (x : Nat) : (takeOccupant x s).freeCount = s.freeCount := rfl
@[simp] theorem takeOccupant_pending (x : Nat) : (takeOccupant x s).pending = s.pending := rfl

@[simp] theorem restrictBegan_powered (x : Nat) : (restrictBegan x s).powered = s.powered := rfl
@[simp] theorem restrictBegan_resetPin (x : Nat) : (restrictBegan x s).resetPin = s.resetPin := rfl
@[simp] theorem restrictBegan_tripPins (x : Nat) : (restrictBegan x s).tripPins = s.tripPins := rfl
@[simp] theorem restrictBegan_rxd (x : Nat) : (restrictBegan x s).rxd = s.rxd := rfl
@[simp] theorem restrictBegan_clock (x : Nat) : (restrictBegan x s).clock = s.clock := rfl
@[simp] theorem restrictBegan_lds (x : Nat) : (restrictBegan x s).lds = s.lds := rfl
@[simp] theorem restrictBegan_store (x : Nat) : (restrictBegan x s).store = s.store := rfl
@[simp] theorem restrictBegan_reg (x : Nat) : (restrictBegan x s).reg = s.reg := rfl
@[simp] theorem restrictBegan_gate (x : Nat) : (restrictBegan x s).gate = s.gate := rfl
@[simp] theorem restrictBegan_trc (x : Nat) : (restrictBegan x s).trc = s.trc := rfl
@[simp] theorem restrictBegan_inm (x : Nat) : (restrictBegan x s).inm = s.inm := rfl
@[simp] theorem restrictBegan_anc (x : Nat) : (restrictBegan x s).anc = s.anc := rfl
@[simp] theorem restrictBegan_drt (x : Nat) : (restrictBegan x s).drt = s.drt := rfl
@[simp] theorem restrictBegan_atu (x : Nat) : (restrictBegan x s).atu = s.atu := rfl
@[simp] theorem restrictBegan_link (x : Nat) : (restrictBegan x s).link = s.link := rfl
@[simp] theorem restrictBegan_scrubDue (x : Nat) : (restrictBegan x s).scrubDue = s.scrubDue := rfl
@[simp] theorem restrictBegan_liftDue (x : Nat) : (restrictBegan x s).liftDue = s.liftDue := rfl
@[simp] theorem restrictBegan_freeCount (x : Nat) : (restrictBegan x s).freeCount = s.freeCount := rfl
@[simp] theorem restrictBegan_pending (x : Nat) : (restrictBegan x s).pending = s.pending := rfl

@[simp] theorem predictAssigned_powered (n : Nat) : (predictAssigned n s).powered = s.powered := rfl
@[simp] theorem predictAssigned_resetPin (n : Nat) : (predictAssigned n s).resetPin = s.resetPin := rfl
@[simp] theorem predictAssigned_tripPins (n : Nat) : (predictAssigned n s).tripPins = s.tripPins := rfl
@[simp] theorem predictAssigned_rxd (n : Nat) : (predictAssigned n s).rxd = s.rxd := rfl
@[simp] theorem predictAssigned_clock (n : Nat) : (predictAssigned n s).clock = s.clock := rfl
@[simp] theorem predictAssigned_lds (n : Nat) : (predictAssigned n s).lds = s.lds := rfl
@[simp] theorem predictAssigned_store (n : Nat) : (predictAssigned n s).store = s.store := rfl
@[simp] theorem predictAssigned_reg (n : Nat) : (predictAssigned n s).reg = s.reg := rfl
@[simp] theorem predictAssigned_gate (n : Nat) : (predictAssigned n s).gate = s.gate := rfl
@[simp] theorem predictAssigned_trc (n : Nat) : (predictAssigned n s).trc = s.trc := rfl
@[simp] theorem predictAssigned_inm (n : Nat) : (predictAssigned n s).inm = s.inm := rfl
@[simp] theorem predictAssigned_anc (n : Nat) : (predictAssigned n s).anc = s.anc := rfl
@[simp] theorem predictAssigned_drt (n : Nat) : (predictAssigned n s).drt = s.drt := rfl
@[simp] theorem predictAssigned_atu (n : Nat) : (predictAssigned n s).atu = s.atu := rfl
@[simp] theorem predictAssigned_link (n : Nat) : (predictAssigned n s).link = s.link := rfl
@[simp] theorem predictAssigned_scrubDue (n : Nat) : (predictAssigned n s).scrubDue = s.scrubDue := rfl
@[simp] theorem predictAssigned_liftDue (n : Nat) : (predictAssigned n s).liftDue = s.liftDue := rfl
@[simp] theorem predictAssigned_freeCount (n : Nat) : (predictAssigned n s).freeCount = s.freeCount := rfl
@[simp] theorem predictAssigned_pending (n : Nat) : (predictAssigned n s).pending = s.pending := rfl

@[simp] theorem writeHeadway_powered (n p : Nat) (dep : Count) (sd : Option Nat) : (writeHeadway n p dep sd s).powered = s.powered := rfl
@[simp] theorem writeHeadway_resetPin (n p : Nat) (dep : Count) (sd : Option Nat) : (writeHeadway n p dep sd s).resetPin = s.resetPin := rfl
@[simp] theorem writeHeadway_tripPins (n p : Nat) (dep : Count) (sd : Option Nat) : (writeHeadway n p dep sd s).tripPins = s.tripPins := rfl
@[simp] theorem writeHeadway_rxd (n p : Nat) (dep : Count) (sd : Option Nat) : (writeHeadway n p dep sd s).rxd = s.rxd := rfl
@[simp] theorem writeHeadway_clock (n p : Nat) (dep : Count) (sd : Option Nat) : (writeHeadway n p dep sd s).clock = s.clock := rfl
@[simp] theorem writeHeadway_lds (n p : Nat) (dep : Count) (sd : Option Nat) : (writeHeadway n p dep sd s).lds = s.lds := rfl
@[simp] theorem writeHeadway_store (n p : Nat) (dep : Count) (sd : Option Nat) : (writeHeadway n p dep sd s).store = s.store := rfl
@[simp] theorem writeHeadway_trt (n p : Nat) (dep : Count) (sd : Option Nat) : (writeHeadway n p dep sd s).trt = s.trt := rfl
@[simp] theorem writeHeadway_gate (n p : Nat) (dep : Count) (sd : Option Nat) : (writeHeadway n p dep sd s).gate = s.gate := rfl
@[simp] theorem writeHeadway_trc (n p : Nat) (dep : Count) (sd : Option Nat) : (writeHeadway n p dep sd s).trc = s.trc := rfl
@[simp] theorem writeHeadway_inm (n p : Nat) (dep : Count) (sd : Option Nat) : (writeHeadway n p dep sd s).inm = s.inm := rfl
@[simp] theorem writeHeadway_anc (n p : Nat) (dep : Count) (sd : Option Nat) : (writeHeadway n p dep sd s).anc = s.anc := rfl
@[simp] theorem writeHeadway_drt (n p : Nat) (dep : Count) (sd : Option Nat) : (writeHeadway n p dep sd s).drt = s.drt := rfl
@[simp] theorem writeHeadway_atu (n p : Nat) (dep : Count) (sd : Option Nat) : (writeHeadway n p dep sd s).atu = s.atu := rfl
@[simp] theorem writeHeadway_link (n p : Nat) (dep : Count) (sd : Option Nat) : (writeHeadway n p dep sd s).link = s.link := rfl
@[simp] theorem writeHeadway_scrubDue (n p : Nat) (dep : Count) (sd : Option Nat) : (writeHeadway n p dep sd s).scrubDue = s.scrubDue := rfl
@[simp] theorem writeHeadway_liftDue (n p : Nat) (dep : Count) (sd : Option Nat) : (writeHeadway n p dep sd s).liftDue = s.liftDue := rfl
@[simp] theorem writeHeadway_freeCount (n p : Nat) (dep : Count) (sd : Option Nat) : (writeHeadway n p dep sd s).freeCount = s.freeCount := rfl
@[simp] theorem writeHeadway_pending (n p : Nat) (dep : Count) (sd : Option Nat) : (writeHeadway n p dep sd s).pending = s.pending := rfl

@[simp] theorem clearSprev_powered : (clearSprev s).powered = s.powered := rfl
@[simp] theorem clearSprev_resetPin : (clearSprev s).resetPin = s.resetPin := rfl
@[simp] theorem clearSprev_tripPins : (clearSprev s).tripPins = s.tripPins := rfl
@[simp] theorem clearSprev_rxd : (clearSprev s).rxd = s.rxd := rfl
@[simp] theorem clearSprev_clock : (clearSprev s).clock = s.clock := rfl
@[simp] theorem clearSprev_lds : (clearSprev s).lds = s.lds := rfl
@[simp] theorem clearSprev_store : (clearSprev s).store = s.store := rfl
@[simp] theorem clearSprev_trt : (clearSprev s).trt = s.trt := rfl
@[simp] theorem clearSprev_gate : (clearSprev s).gate = s.gate := rfl
@[simp] theorem clearSprev_trc : (clearSprev s).trc = s.trc := rfl
@[simp] theorem clearSprev_inm : (clearSprev s).inm = s.inm := rfl
@[simp] theorem clearSprev_anc : (clearSprev s).anc = s.anc := rfl
@[simp] theorem clearSprev_drt : (clearSprev s).drt = s.drt := rfl
@[simp] theorem clearSprev_atu : (clearSprev s).atu = s.atu := rfl
@[simp] theorem clearSprev_link : (clearSprev s).link = s.link := rfl
@[simp] theorem clearSprev_scrubDue : (clearSprev s).scrubDue = s.scrubDue := rfl
@[simp] theorem clearSprev_liftDue : (clearSprev s).liftDue = s.liftDue := rfl
@[simp] theorem clearSprev_freeCount : (clearSprev s).freeCount = s.freeCount := rfl
@[simp] theorem clearSprev_pending : (clearSprev s).pending = s.pending := rfl

@[simp] theorem commitMerge_powered (c : Option (Nat × Commit)) : (commitMerge c s).powered = s.powered := by cases c <;> rfl
@[simp] theorem commitMerge_resetPin (c : Option (Nat × Commit)) : (commitMerge c s).resetPin = s.resetPin := by cases c <;> rfl
@[simp] theorem commitMerge_tripPins (c : Option (Nat × Commit)) : (commitMerge c s).tripPins = s.tripPins := by cases c <;> rfl
@[simp] theorem commitMerge_rxd (c : Option (Nat × Commit)) : (commitMerge c s).rxd = s.rxd := by cases c <;> rfl
@[simp] theorem commitMerge_clock (c : Option (Nat × Commit)) : (commitMerge c s).clock = s.clock := by cases c <;> rfl
@[simp] theorem commitMerge_lds (c : Option (Nat × Commit)) : (commitMerge c s).lds = s.lds := by cases c <;> rfl
@[simp] theorem commitMerge_store (c : Option (Nat × Commit)) : (commitMerge c s).store = s.store := by cases c <;> rfl
@[simp] theorem commitMerge_trt (c : Option (Nat × Commit)) : (commitMerge c s).trt = s.trt := by cases c <;> rfl
@[simp] theorem commitMerge_gate (c : Option (Nat × Commit)) : (commitMerge c s).gate = s.gate := by cases c <;> rfl
@[simp] theorem commitMerge_trc (c : Option (Nat × Commit)) : (commitMerge c s).trc = s.trc := by cases c <;> rfl
@[simp] theorem commitMerge_inm (c : Option (Nat × Commit)) : (commitMerge c s).inm = s.inm := by cases c <;> rfl
@[simp] theorem commitMerge_anc (c : Option (Nat × Commit)) : (commitMerge c s).anc = s.anc := by cases c <;> rfl
@[simp] theorem commitMerge_drt (c : Option (Nat × Commit)) : (commitMerge c s).drt = s.drt := by cases c <;> rfl
@[simp] theorem commitMerge_atu (c : Option (Nat × Commit)) : (commitMerge c s).atu = s.atu := by cases c <;> rfl
@[simp] theorem commitMerge_link (c : Option (Nat × Commit)) : (commitMerge c s).link = s.link := by cases c <;> rfl
@[simp] theorem commitMerge_scrubDue (c : Option (Nat × Commit)) : (commitMerge c s).scrubDue = s.scrubDue := by cases c <;> rfl
@[simp] theorem commitMerge_liftDue (c : Option (Nat × Commit)) : (commitMerge c s).liftDue = s.liftDue := by cases c <;> rfl
@[simp] theorem commitMerge_freeCount (c : Option (Nat × Commit)) : (commitMerge c s).freeCount = s.freeCount := by cases c <;> rfl
@[simp] theorem commitMerge_pending (c : Option (Nat × Commit)) : (commitMerge c s).pending = s.pending := by cases c <;> rfl

@[simp] theorem modArbiter_powered (z : Nat) (f : Arbiter → Arbiter) : (modArbiter z f s).powered = s.powered := rfl
@[simp] theorem modArbiter_resetPin (z : Nat) (f : Arbiter → Arbiter) : (modArbiter z f s).resetPin = s.resetPin := rfl
@[simp] theorem modArbiter_tripPins (z : Nat) (f : Arbiter → Arbiter) : (modArbiter z f s).tripPins = s.tripPins := rfl
@[simp] theorem modArbiter_rxd (z : Nat) (f : Arbiter → Arbiter) : (modArbiter z f s).rxd = s.rxd := rfl
@[simp] theorem modArbiter_clock (z : Nat) (f : Arbiter → Arbiter) : (modArbiter z f s).clock = s.clock := rfl
@[simp] theorem modArbiter_lds (z : Nat) (f : Arbiter → Arbiter) : (modArbiter z f s).lds = s.lds := rfl
@[simp] theorem modArbiter_store (z : Nat) (f : Arbiter → Arbiter) : (modArbiter z f s).store = s.store := rfl
@[simp] theorem modArbiter_trt (z : Nat) (f : Arbiter → Arbiter) : (modArbiter z f s).trt = s.trt := rfl
@[simp] theorem modArbiter_reg (z : Nat) (f : Arbiter → Arbiter) : (modArbiter z f s).reg = s.reg := rfl
@[simp] theorem modArbiter_trc (z : Nat) (f : Arbiter → Arbiter) : (modArbiter z f s).trc = s.trc := rfl
@[simp] theorem modArbiter_inm (z : Nat) (f : Arbiter → Arbiter) : (modArbiter z f s).inm = s.inm := rfl
@[simp] theorem modArbiter_anc (z : Nat) (f : Arbiter → Arbiter) : (modArbiter z f s).anc = s.anc := rfl
@[simp] theorem modArbiter_drt (z : Nat) (f : Arbiter → Arbiter) : (modArbiter z f s).drt = s.drt := rfl
@[simp] theorem modArbiter_atu (z : Nat) (f : Arbiter → Arbiter) : (modArbiter z f s).atu = s.atu := rfl
@[simp] theorem modArbiter_link (z : Nat) (f : Arbiter → Arbiter) : (modArbiter z f s).link = s.link := rfl
@[simp] theorem modArbiter_scrubDue (z : Nat) (f : Arbiter → Arbiter) : (modArbiter z f s).scrubDue = s.scrubDue := rfl
@[simp] theorem modArbiter_liftDue (z : Nat) (f : Arbiter → Arbiter) : (modArbiter z f s).liftDue = s.liftDue := rfl
@[simp] theorem modArbiter_freeCount (z : Nat) (f : Arbiter → Arbiter) : (modArbiter z f s).freeCount = s.freeCount := rfl
@[simp] theorem modArbiter_pending (z : Nat) (f : Arbiter → Arbiter) : (modArbiter z f s).pending = s.pending := rfl

@[simp] theorem withdrawRequest_powered (n : Nat) : (withdrawRequest n s).powered = s.powered := rfl
@[simp] theorem withdrawRequest_resetPin (n : Nat) : (withdrawRequest n s).resetPin = s.resetPin := rfl
@[simp] theorem withdrawRequest_tripPins (n : Nat) : (withdrawRequest n s).tripPins = s.tripPins := rfl
@[simp] theorem withdrawRequest_rxd (n : Nat) : (withdrawRequest n s).rxd = s.rxd := rfl
@[simp] theorem withdrawRequest_clock (n : Nat) : (withdrawRequest n s).clock = s.clock := rfl
@[simp] theorem withdrawRequest_lds (n : Nat) : (withdrawRequest n s).lds = s.lds := rfl
@[simp] theorem withdrawRequest_store (n : Nat) : (withdrawRequest n s).store = s.store := rfl
@[simp] theorem withdrawRequest_reg (n : Nat) : (withdrawRequest n s).reg = s.reg := rfl
@[simp] theorem withdrawRequest_trc (n : Nat) : (withdrawRequest n s).trc = s.trc := rfl
@[simp] theorem withdrawRequest_inm (n : Nat) : (withdrawRequest n s).inm = s.inm := rfl
@[simp] theorem withdrawRequest_anc (n : Nat) : (withdrawRequest n s).anc = s.anc := rfl
@[simp] theorem withdrawRequest_drt (n : Nat) : (withdrawRequest n s).drt = s.drt := rfl
@[simp] theorem withdrawRequest_atu (n : Nat) : (withdrawRequest n s).atu = s.atu := rfl
@[simp] theorem withdrawRequest_link (n : Nat) : (withdrawRequest n s).link = s.link := rfl
@[simp] theorem withdrawRequest_scrubDue (n : Nat) : (withdrawRequest n s).scrubDue = s.scrubDue := rfl
@[simp] theorem withdrawRequest_liftDue (n : Nat) : (withdrawRequest n s).liftDue = s.liftDue := rfl
@[simp] theorem withdrawRequest_freeCount (n : Nat) : (withdrawRequest n s).freeCount = s.freeCount := rfl
@[simp] theorem withdrawRequest_pending (n : Nat) : (withdrawRequest n s).pending = s.pending := rfl

@[simp] theorem returnGrant_powered (z n : Nat) (e : Count) : (returnGrant z n e s).powered = s.powered := rfl
@[simp] theorem returnGrant_resetPin (z n : Nat) (e : Count) : (returnGrant z n e s).resetPin = s.resetPin := rfl
@[simp] theorem returnGrant_tripPins (z n : Nat) (e : Count) : (returnGrant z n e s).tripPins = s.tripPins := rfl
@[simp] theorem returnGrant_rxd (z n : Nat) (e : Count) : (returnGrant z n e s).rxd = s.rxd := rfl
@[simp] theorem returnGrant_clock (z n : Nat) (e : Count) : (returnGrant z n e s).clock = s.clock := rfl
@[simp] theorem returnGrant_lds (z n : Nat) (e : Count) : (returnGrant z n e s).lds = s.lds := rfl
@[simp] theorem returnGrant_store (z n : Nat) (e : Count) : (returnGrant z n e s).store = s.store := rfl
@[simp] theorem returnGrant_reg (z n : Nat) (e : Count) : (returnGrant z n e s).reg = s.reg := rfl
@[simp] theorem returnGrant_trc (z n : Nat) (e : Count) : (returnGrant z n e s).trc = s.trc := rfl
@[simp] theorem returnGrant_inm (z n : Nat) (e : Count) : (returnGrant z n e s).inm = s.inm := rfl
@[simp] theorem returnGrant_anc (z n : Nat) (e : Count) : (returnGrant z n e s).anc = s.anc := rfl
@[simp] theorem returnGrant_drt (z n : Nat) (e : Count) : (returnGrant z n e s).drt = s.drt := rfl
@[simp] theorem returnGrant_atu (z n : Nat) (e : Count) : (returnGrant z n e s).atu = s.atu := rfl
@[simp] theorem returnGrant_link (z n : Nat) (e : Count) : (returnGrant z n e s).link = s.link := rfl
@[simp] theorem returnGrant_scrubDue (z n : Nat) (e : Count) : (returnGrant z n e s).scrubDue = s.scrubDue := rfl
@[simp] theorem returnGrant_liftDue (z n : Nat) (e : Count) : (returnGrant z n e s).liftDue = s.liftDue := rfl
@[simp] theorem returnGrant_freeCount (z n : Nat) (e : Count) : (returnGrant z n e s).freeCount = s.freeCount := rfl
@[simp] theorem returnGrant_pending (z n : Nat) (e : Count) : (returnGrant z n e s).pending = s.pending := rfl

@[simp] theorem gateGone_powered (n : Nat) : (gateGone n s).powered = s.powered := rfl
@[simp] theorem gateGone_resetPin (n : Nat) : (gateGone n s).resetPin = s.resetPin := rfl
@[simp] theorem gateGone_tripPins (n : Nat) : (gateGone n s).tripPins = s.tripPins := rfl
@[simp] theorem gateGone_rxd (n : Nat) : (gateGone n s).rxd = s.rxd := rfl
@[simp] theorem gateGone_clock (n : Nat) : (gateGone n s).clock = s.clock := rfl
@[simp] theorem gateGone_lds (n : Nat) : (gateGone n s).lds = s.lds := rfl
@[simp] theorem gateGone_store (n : Nat) : (gateGone n s).store = s.store := rfl
@[simp] theorem gateGone_reg (n : Nat) : (gateGone n s).reg = s.reg := rfl
@[simp] theorem gateGone_trc (n : Nat) : (gateGone n s).trc = s.trc := rfl
@[simp] theorem gateGone_inm (n : Nat) : (gateGone n s).inm = s.inm := rfl
@[simp] theorem gateGone_anc (n : Nat) : (gateGone n s).anc = s.anc := rfl
@[simp] theorem gateGone_drt (n : Nat) : (gateGone n s).drt = s.drt := rfl
@[simp] theorem gateGone_atu (n : Nat) : (gateGone n s).atu = s.atu := rfl
@[simp] theorem gateGone_link (n : Nat) : (gateGone n s).link = s.link := rfl
@[simp] theorem gateGone_scrubDue (n : Nat) : (gateGone n s).scrubDue = s.scrubDue := rfl
@[simp] theorem gateGone_liftDue (n : Nat) : (gateGone n s).liftDue = s.liftDue := rfl
@[simp] theorem gateGone_freeCount (n : Nat) : (gateGone n s).freeCount = s.freeCount := rfl
@[simp] theorem gateGone_pending (n : Nat) : (gateGone n s).pending = s.pending := rfl

@[simp] theorem startGrant_powered (z n : Nat) (d : Count) : (startGrant z n d s).powered = s.powered := rfl
@[simp] theorem startGrant_resetPin (z n : Nat) (d : Count) : (startGrant z n d s).resetPin = s.resetPin := rfl
@[simp] theorem startGrant_tripPins (z n : Nat) (d : Count) : (startGrant z n d s).tripPins = s.tripPins := rfl
@[simp] theorem startGrant_rxd (z n : Nat) (d : Count) : (startGrant z n d s).rxd = s.rxd := rfl
@[simp] theorem startGrant_clock (z n : Nat) (d : Count) : (startGrant z n d s).clock = s.clock := rfl
@[simp] theorem startGrant_lds (z n : Nat) (d : Count) : (startGrant z n d s).lds = s.lds := rfl
@[simp] theorem startGrant_store (z n : Nat) (d : Count) : (startGrant z n d s).store = s.store := rfl
@[simp] theorem startGrant_trt (z n : Nat) (d : Count) : (startGrant z n d s).trt = s.trt := rfl
@[simp] theorem startGrant_reg (z n : Nat) (d : Count) : (startGrant z n d s).reg = s.reg := rfl
@[simp] theorem startGrant_trc (z n : Nat) (d : Count) : (startGrant z n d s).trc = s.trc := rfl
@[simp] theorem startGrant_inm (z n : Nat) (d : Count) : (startGrant z n d s).inm = s.inm := rfl
@[simp] theorem startGrant_anc (z n : Nat) (d : Count) : (startGrant z n d s).anc = s.anc := rfl
@[simp] theorem startGrant_drt (z n : Nat) (d : Count) : (startGrant z n d s).drt = s.drt := rfl
@[simp] theorem startGrant_atu (z n : Nat) (d : Count) : (startGrant z n d s).atu = s.atu := rfl
@[simp] theorem startGrant_link (z n : Nat) (d : Count) : (startGrant z n d s).link = s.link := rfl
@[simp] theorem startGrant_scrubDue (z n : Nat) (d : Count) : (startGrant z n d s).scrubDue = s.scrubDue := rfl
@[simp] theorem startGrant_liftDue (z n : Nat) (d : Count) : (startGrant z n d s).liftDue = s.liftDue := rfl
@[simp] theorem startGrant_freeCount (z n : Nat) (d : Count) : (startGrant z n d s).freeCount = s.freeCount := rfl
@[simp] theorem startGrant_pending (z n : Nat) (d : Count) : (startGrant z n d s).pending = s.pending := rfl

/-! ## The Traction Controller and the Incident Manager -/

@[simp] theorem modRec_powered (x : Nat) (f : SectRec → SectRec) : (modRec x f s).powered = s.powered := rfl
@[simp] theorem modRec_resetPin (x : Nat) (f : SectRec → SectRec) : (modRec x f s).resetPin = s.resetPin := rfl
@[simp] theorem modRec_tripPins (x : Nat) (f : SectRec → SectRec) : (modRec x f s).tripPins = s.tripPins := rfl
@[simp] theorem modRec_rxd (x : Nat) (f : SectRec → SectRec) : (modRec x f s).rxd = s.rxd := rfl
@[simp] theorem modRec_clock (x : Nat) (f : SectRec → SectRec) : (modRec x f s).clock = s.clock := rfl
@[simp] theorem modRec_lds (x : Nat) (f : SectRec → SectRec) : (modRec x f s).lds = s.lds := rfl
@[simp] theorem modRec_store (x : Nat) (f : SectRec → SectRec) : (modRec x f s).store = s.store := rfl
@[simp] theorem modRec_trt (x : Nat) (f : SectRec → SectRec) : (modRec x f s).trt = s.trt := rfl
@[simp] theorem modRec_reg (x : Nat) (f : SectRec → SectRec) : (modRec x f s).reg = s.reg := rfl
@[simp] theorem modRec_gate (x : Nat) (f : SectRec → SectRec) : (modRec x f s).gate = s.gate := rfl
@[simp] theorem modRec_inm (x : Nat) (f : SectRec → SectRec) : (modRec x f s).inm = s.inm := rfl
@[simp] theorem modRec_anc (x : Nat) (f : SectRec → SectRec) : (modRec x f s).anc = s.anc := rfl
@[simp] theorem modRec_drt (x : Nat) (f : SectRec → SectRec) : (modRec x f s).drt = s.drt := rfl
@[simp] theorem modRec_atu (x : Nat) (f : SectRec → SectRec) : (modRec x f s).atu = s.atu := rfl
@[simp] theorem modRec_link (x : Nat) (f : SectRec → SectRec) : (modRec x f s).link = s.link := rfl
@[simp] theorem modRec_scrubDue (x : Nat) (f : SectRec → SectRec) : (modRec x f s).scrubDue = s.scrubDue := rfl
@[simp] theorem modRec_liftDue (x : Nat) (f : SectRec → SectRec) : (modRec x f s).liftDue = s.liftDue := rfl
@[simp] theorem modRec_freeCount (x : Nat) (f : SectRec → SectRec) : (modRec x f s).freeCount = s.freeCount := rfl
@[simp] theorem modRec_pending (x : Nat) (f : SectRec → SectRec) : (modRec x f s).pending = s.pending := rfl

@[simp] theorem modInput_powered (n : Nat) (f : TripInput → TripInput) : (modInput n f s).powered = s.powered := rfl
@[simp] theorem modInput_resetPin (n : Nat) (f : TripInput → TripInput) : (modInput n f s).resetPin = s.resetPin := rfl
@[simp] theorem modInput_tripPins (n : Nat) (f : TripInput → TripInput) : (modInput n f s).tripPins = s.tripPins := rfl
@[simp] theorem modInput_rxd (n : Nat) (f : TripInput → TripInput) : (modInput n f s).rxd = s.rxd := rfl
@[simp] theorem modInput_clock (n : Nat) (f : TripInput → TripInput) : (modInput n f s).clock = s.clock := rfl
@[simp] theorem modInput_lds (n : Nat) (f : TripInput → TripInput) : (modInput n f s).lds = s.lds := rfl
@[simp] theorem modInput_store (n : Nat) (f : TripInput → TripInput) : (modInput n f s).store = s.store := rfl
@[simp] theorem modInput_trt (n : Nat) (f : TripInput → TripInput) : (modInput n f s).trt = s.trt := rfl
@[simp] theorem modInput_reg (n : Nat) (f : TripInput → TripInput) : (modInput n f s).reg = s.reg := rfl
@[simp] theorem modInput_gate (n : Nat) (f : TripInput → TripInput) : (modInput n f s).gate = s.gate := rfl
@[simp] theorem modInput_trc (n : Nat) (f : TripInput → TripInput) : (modInput n f s).trc = s.trc := rfl
@[simp] theorem modInput_anc (n : Nat) (f : TripInput → TripInput) : (modInput n f s).anc = s.anc := rfl
@[simp] theorem modInput_drt (n : Nat) (f : TripInput → TripInput) : (modInput n f s).drt = s.drt := rfl
@[simp] theorem modInput_atu (n : Nat) (f : TripInput → TripInput) : (modInput n f s).atu = s.atu := rfl
@[simp] theorem modInput_link (n : Nat) (f : TripInput → TripInput) : (modInput n f s).link = s.link := rfl
@[simp] theorem modInput_scrubDue (n : Nat) (f : TripInput → TripInput) : (modInput n f s).scrubDue = s.scrubDue := rfl
@[simp] theorem modInput_liftDue (n : Nat) (f : TripInput → TripInput) : (modInput n f s).liftDue = s.liftDue := rfl
@[simp] theorem modInput_freeCount (n : Nat) (f : TripInput → TripInput) : (modInput n f s).freeCount = s.freeCount := rfl
@[simp] theorem modInput_pending (n : Nat) (f : TripInput → TripInput) : (modInput n f s).pending = s.pending := rfl

@[simp] theorem modChannel_powered (c : Nat) (f : Channel → Channel) : (modChannel c f s).powered = s.powered := rfl
@[simp] theorem modChannel_resetPin (c : Nat) (f : Channel → Channel) : (modChannel c f s).resetPin = s.resetPin := rfl
@[simp] theorem modChannel_tripPins (c : Nat) (f : Channel → Channel) : (modChannel c f s).tripPins = s.tripPins := rfl
@[simp] theorem modChannel_rxd (c : Nat) (f : Channel → Channel) : (modChannel c f s).rxd = s.rxd := rfl
@[simp] theorem modChannel_clock (c : Nat) (f : Channel → Channel) : (modChannel c f s).clock = s.clock := rfl
@[simp] theorem modChannel_lds (c : Nat) (f : Channel → Channel) : (modChannel c f s).lds = s.lds := rfl
@[simp] theorem modChannel_store (c : Nat) (f : Channel → Channel) : (modChannel c f s).store = s.store := rfl
@[simp] theorem modChannel_trt (c : Nat) (f : Channel → Channel) : (modChannel c f s).trt = s.trt := rfl
@[simp] theorem modChannel_reg (c : Nat) (f : Channel → Channel) : (modChannel c f s).reg = s.reg := rfl
@[simp] theorem modChannel_gate (c : Nat) (f : Channel → Channel) : (modChannel c f s).gate = s.gate := rfl
@[simp] theorem modChannel_trc (c : Nat) (f : Channel → Channel) : (modChannel c f s).trc = s.trc := rfl
@[simp] theorem modChannel_anc (c : Nat) (f : Channel → Channel) : (modChannel c f s).anc = s.anc := rfl
@[simp] theorem modChannel_drt (c : Nat) (f : Channel → Channel) : (modChannel c f s).drt = s.drt := rfl
@[simp] theorem modChannel_atu (c : Nat) (f : Channel → Channel) : (modChannel c f s).atu = s.atu := rfl
@[simp] theorem modChannel_link (c : Nat) (f : Channel → Channel) : (modChannel c f s).link = s.link := rfl
@[simp] theorem modChannel_scrubDue (c : Nat) (f : Channel → Channel) : (modChannel c f s).scrubDue = s.scrubDue := rfl
@[simp] theorem modChannel_liftDue (c : Nat) (f : Channel → Channel) : (modChannel c f s).liftDue = s.liftDue := rfl
@[simp] theorem modChannel_freeCount (c : Nat) (f : Channel → Channel) : (modChannel c f s).freeCount = s.freeCount := rfl
@[simp] theorem modChannel_pending (c : Nat) (f : Channel → Channel) : (modChannel c f s).pending = s.pending := rfl

@[simp] theorem modIncident_powered (n : Nat) (f : Incident → Incident) : (modIncident n f s).powered = s.powered := rfl
@[simp] theorem modIncident_resetPin (n : Nat) (f : Incident → Incident) : (modIncident n f s).resetPin = s.resetPin := rfl
@[simp] theorem modIncident_tripPins (n : Nat) (f : Incident → Incident) : (modIncident n f s).tripPins = s.tripPins := rfl
@[simp] theorem modIncident_rxd (n : Nat) (f : Incident → Incident) : (modIncident n f s).rxd = s.rxd := rfl
@[simp] theorem modIncident_clock (n : Nat) (f : Incident → Incident) : (modIncident n f s).clock = s.clock := rfl
@[simp] theorem modIncident_lds (n : Nat) (f : Incident → Incident) : (modIncident n f s).lds = s.lds := rfl
@[simp] theorem modIncident_store (n : Nat) (f : Incident → Incident) : (modIncident n f s).store = s.store := rfl
@[simp] theorem modIncident_trt (n : Nat) (f : Incident → Incident) : (modIncident n f s).trt = s.trt := rfl
@[simp] theorem modIncident_reg (n : Nat) (f : Incident → Incident) : (modIncident n f s).reg = s.reg := rfl
@[simp] theorem modIncident_gate (n : Nat) (f : Incident → Incident) : (modIncident n f s).gate = s.gate := rfl
@[simp] theorem modIncident_trc (n : Nat) (f : Incident → Incident) : (modIncident n f s).trc = s.trc := rfl
@[simp] theorem modIncident_anc (n : Nat) (f : Incident → Incident) : (modIncident n f s).anc = s.anc := rfl
@[simp] theorem modIncident_drt (n : Nat) (f : Incident → Incident) : (modIncident n f s).drt = s.drt := rfl
@[simp] theorem modIncident_atu (n : Nat) (f : Incident → Incident) : (modIncident n f s).atu = s.atu := rfl
@[simp] theorem modIncident_link (n : Nat) (f : Incident → Incident) : (modIncident n f s).link = s.link := rfl
@[simp] theorem modIncident_scrubDue (n : Nat) (f : Incident → Incident) : (modIncident n f s).scrubDue = s.scrubDue := rfl
@[simp] theorem modIncident_liftDue (n : Nat) (f : Incident → Incident) : (modIncident n f s).liftDue = s.liftDue := rfl
@[simp] theorem modIncident_freeCount (n : Nat) (f : Incident → Incident) : (modIncident n f s).freeCount = s.freeCount := rfl
@[simp] theorem modIncident_pending (n : Nat) (f : Incident → Incident) : (modIncident n f s).pending = s.pending := rfl

@[simp] theorem endCondition_powered (src : Source) (loc : IncidentLoc) : (endCondition src loc s).powered = s.powered := rfl
@[simp] theorem endCondition_resetPin (src : Source) (loc : IncidentLoc) : (endCondition src loc s).resetPin = s.resetPin := rfl
@[simp] theorem endCondition_tripPins (src : Source) (loc : IncidentLoc) : (endCondition src loc s).tripPins = s.tripPins := rfl
@[simp] theorem endCondition_rxd (src : Source) (loc : IncidentLoc) : (endCondition src loc s).rxd = s.rxd := rfl
@[simp] theorem endCondition_clock (src : Source) (loc : IncidentLoc) : (endCondition src loc s).clock = s.clock := rfl
@[simp] theorem endCondition_lds (src : Source) (loc : IncidentLoc) : (endCondition src loc s).lds = s.lds := rfl
@[simp] theorem endCondition_store (src : Source) (loc : IncidentLoc) : (endCondition src loc s).store = s.store := rfl
@[simp] theorem endCondition_trt (src : Source) (loc : IncidentLoc) : (endCondition src loc s).trt = s.trt := rfl
@[simp] theorem endCondition_reg (src : Source) (loc : IncidentLoc) : (endCondition src loc s).reg = s.reg := rfl
@[simp] theorem endCondition_gate (src : Source) (loc : IncidentLoc) : (endCondition src loc s).gate = s.gate := rfl
@[simp] theorem endCondition_trc (src : Source) (loc : IncidentLoc) : (endCondition src loc s).trc = s.trc := rfl
@[simp] theorem endCondition_anc (src : Source) (loc : IncidentLoc) : (endCondition src loc s).anc = s.anc := rfl
@[simp] theorem endCondition_drt (src : Source) (loc : IncidentLoc) : (endCondition src loc s).drt = s.drt := rfl
@[simp] theorem endCondition_atu (src : Source) (loc : IncidentLoc) : (endCondition src loc s).atu = s.atu := rfl
@[simp] theorem endCondition_link (src : Source) (loc : IncidentLoc) : (endCondition src loc s).link = s.link := rfl
@[simp] theorem endCondition_scrubDue (src : Source) (loc : IncidentLoc) : (endCondition src loc s).scrubDue = s.scrubDue := rfl
@[simp] theorem endCondition_liftDue (src : Source) (loc : IncidentLoc) : (endCondition src loc s).liftDue = s.liftDue := rfl
@[simp] theorem endCondition_freeCount (src : Source) (loc : IncidentLoc) : (endCondition src loc s).freeCount = s.freeCount := rfl
@[simp] theorem endCondition_pending (src : Source) (loc : IncidentLoc) : (endCondition src loc s).pending = s.pending := rfl

@[simp] theorem liftEntry_powered (n : Nat) (i : Incident) : (liftEntry n i s).powered = s.powered := by unfold liftEntry; dsimp only; split <;> rfl
@[simp] theorem liftEntry_resetPin (n : Nat) (i : Incident) : (liftEntry n i s).resetPin = s.resetPin := by unfold liftEntry; dsimp only; split <;> rfl
@[simp] theorem liftEntry_tripPins (n : Nat) (i : Incident) : (liftEntry n i s).tripPins = s.tripPins := by unfold liftEntry; dsimp only; split <;> rfl
@[simp] theorem liftEntry_rxd (n : Nat) (i : Incident) : (liftEntry n i s).rxd = s.rxd := by unfold liftEntry; dsimp only; split <;> rfl
@[simp] theorem liftEntry_clock (n : Nat) (i : Incident) : (liftEntry n i s).clock = s.clock := by unfold liftEntry; dsimp only; split <;> rfl
@[simp] theorem liftEntry_lds (n : Nat) (i : Incident) : (liftEntry n i s).lds = s.lds := by unfold liftEntry; dsimp only; split <;> rfl
@[simp] theorem liftEntry_store (n : Nat) (i : Incident) : (liftEntry n i s).store = s.store := by unfold liftEntry; dsimp only; split <;> rfl
@[simp] theorem liftEntry_trt (n : Nat) (i : Incident) : (liftEntry n i s).trt = s.trt := by unfold liftEntry; dsimp only; split <;> rfl
@[simp] theorem liftEntry_reg (n : Nat) (i : Incident) : (liftEntry n i s).reg = s.reg := by unfold liftEntry; dsimp only; split <;> rfl
@[simp] theorem liftEntry_gate (n : Nat) (i : Incident) : (liftEntry n i s).gate = s.gate := by unfold liftEntry; dsimp only; split <;> rfl
@[simp] theorem liftEntry_trc (n : Nat) (i : Incident) : (liftEntry n i s).trc = s.trc := by unfold liftEntry; dsimp only; split <;> rfl
@[simp] theorem liftEntry_anc (n : Nat) (i : Incident) : (liftEntry n i s).anc = s.anc := by unfold liftEntry; dsimp only; split <;> rfl
@[simp] theorem liftEntry_drt (n : Nat) (i : Incident) : (liftEntry n i s).drt = s.drt := by unfold liftEntry; dsimp only; split <;> rfl
@[simp] theorem liftEntry_atu (n : Nat) (i : Incident) : (liftEntry n i s).atu = s.atu := by unfold liftEntry; dsimp only; split <;> rfl
@[simp] theorem liftEntry_link (n : Nat) (i : Incident) : (liftEntry n i s).link = s.link := by unfold liftEntry; dsimp only; split <;> rfl
@[simp] theorem liftEntry_scrubDue (n : Nat) (i : Incident) : (liftEntry n i s).scrubDue = s.scrubDue := by unfold liftEntry; dsimp only; split <;> rfl
@[simp] theorem liftEntry_liftDue (n : Nat) (i : Incident) : (liftEntry n i s).liftDue = s.liftDue := by unfold liftEntry; dsimp only; split <;> rfl
@[simp] theorem liftEntry_freeCount (n : Nat) (i : Incident) : (liftEntry n i s).freeCount = s.freeCount := by unfold liftEntry; dsimp only; split <;> rfl
@[simp] theorem liftEntry_pending (n : Nat) (i : Incident) : (liftEntry n i s).pending = s.pending := by unfold liftEntry; dsimp only; split <;> rfl

@[simp] theorem dropEntry_powered (n : Nat) (i : Incident) : (dropEntry n i s).powered = s.powered := by unfold dropEntry; dsimp only; split <;> rfl
@[simp] theorem dropEntry_resetPin (n : Nat) (i : Incident) : (dropEntry n i s).resetPin = s.resetPin := by unfold dropEntry; dsimp only; split <;> rfl
@[simp] theorem dropEntry_tripPins (n : Nat) (i : Incident) : (dropEntry n i s).tripPins = s.tripPins := by unfold dropEntry; dsimp only; split <;> rfl
@[simp] theorem dropEntry_rxd (n : Nat) (i : Incident) : (dropEntry n i s).rxd = s.rxd := by unfold dropEntry; dsimp only; split <;> rfl
@[simp] theorem dropEntry_clock (n : Nat) (i : Incident) : (dropEntry n i s).clock = s.clock := by unfold dropEntry; dsimp only; split <;> rfl
@[simp] theorem dropEntry_lds (n : Nat) (i : Incident) : (dropEntry n i s).lds = s.lds := by unfold dropEntry; dsimp only; split <;> rfl
@[simp] theorem dropEntry_store (n : Nat) (i : Incident) : (dropEntry n i s).store = s.store := by unfold dropEntry; dsimp only; split <;> rfl
@[simp] theorem dropEntry_trt (n : Nat) (i : Incident) : (dropEntry n i s).trt = s.trt := by unfold dropEntry; dsimp only; split <;> rfl
@[simp] theorem dropEntry_reg (n : Nat) (i : Incident) : (dropEntry n i s).reg = s.reg := by unfold dropEntry; dsimp only; split <;> rfl
@[simp] theorem dropEntry_gate (n : Nat) (i : Incident) : (dropEntry n i s).gate = s.gate := by unfold dropEntry; dsimp only; split <;> rfl
@[simp] theorem dropEntry_trc (n : Nat) (i : Incident) : (dropEntry n i s).trc = s.trc := by unfold dropEntry; dsimp only; split <;> rfl
@[simp] theorem dropEntry_anc (n : Nat) (i : Incident) : (dropEntry n i s).anc = s.anc := by unfold dropEntry; dsimp only; split <;> rfl
@[simp] theorem dropEntry_drt (n : Nat) (i : Incident) : (dropEntry n i s).drt = s.drt := by unfold dropEntry; dsimp only; split <;> rfl
@[simp] theorem dropEntry_atu (n : Nat) (i : Incident) : (dropEntry n i s).atu = s.atu := by unfold dropEntry; dsimp only; split <;> rfl
@[simp] theorem dropEntry_link (n : Nat) (i : Incident) : (dropEntry n i s).link = s.link := by unfold dropEntry; dsimp only; split <;> rfl
@[simp] theorem dropEntry_scrubDue (n : Nat) (i : Incident) : (dropEntry n i s).scrubDue = s.scrubDue := by unfold dropEntry; dsimp only; split <;> rfl
@[simp] theorem dropEntry_liftDue (n : Nat) (i : Incident) : (dropEntry n i s).liftDue = s.liftDue := by unfold dropEntry; dsimp only; split <;> rfl
@[simp] theorem dropEntry_freeCount (n : Nat) (i : Incident) : (dropEntry n i s).freeCount = s.freeCount := by unfold dropEntry; dsimp only; split <;> rfl
@[simp] theorem dropEntry_pending (n : Nat) (i : Incident) : (dropEntry n i s).pending = s.pending := by unfold dropEntry; dsimp only; split <;> rfl

@[simp] theorem noteChannelRaise_powered (c : Nat) (o : RaiseOutcome) : (noteChannelRaise c o s).powered = s.powered := by unfold noteChannelRaise; split <;> rfl
@[simp] theorem noteChannelRaise_resetPin (c : Nat) (o : RaiseOutcome) : (noteChannelRaise c o s).resetPin = s.resetPin := by unfold noteChannelRaise; split <;> rfl
@[simp] theorem noteChannelRaise_tripPins (c : Nat) (o : RaiseOutcome) : (noteChannelRaise c o s).tripPins = s.tripPins := by unfold noteChannelRaise; split <;> rfl
@[simp] theorem noteChannelRaise_rxd (c : Nat) (o : RaiseOutcome) : (noteChannelRaise c o s).rxd = s.rxd := by unfold noteChannelRaise; split <;> rfl
@[simp] theorem noteChannelRaise_clock (c : Nat) (o : RaiseOutcome) : (noteChannelRaise c o s).clock = s.clock := by unfold noteChannelRaise; split <;> rfl
@[simp] theorem noteChannelRaise_lds (c : Nat) (o : RaiseOutcome) : (noteChannelRaise c o s).lds = s.lds := by unfold noteChannelRaise; split <;> rfl
@[simp] theorem noteChannelRaise_store (c : Nat) (o : RaiseOutcome) : (noteChannelRaise c o s).store = s.store := by unfold noteChannelRaise; split <;> rfl
@[simp] theorem noteChannelRaise_trt (c : Nat) (o : RaiseOutcome) : (noteChannelRaise c o s).trt = s.trt := by unfold noteChannelRaise; split <;> rfl
@[simp] theorem noteChannelRaise_reg (c : Nat) (o : RaiseOutcome) : (noteChannelRaise c o s).reg = s.reg := by unfold noteChannelRaise; split <;> rfl
@[simp] theorem noteChannelRaise_gate (c : Nat) (o : RaiseOutcome) : (noteChannelRaise c o s).gate = s.gate := by unfold noteChannelRaise; split <;> rfl
@[simp] theorem noteChannelRaise_trc (c : Nat) (o : RaiseOutcome) : (noteChannelRaise c o s).trc = s.trc := by unfold noteChannelRaise; split <;> rfl
@[simp] theorem noteChannelRaise_anc (c : Nat) (o : RaiseOutcome) : (noteChannelRaise c o s).anc = s.anc := by unfold noteChannelRaise; split <;> rfl
@[simp] theorem noteChannelRaise_drt (c : Nat) (o : RaiseOutcome) : (noteChannelRaise c o s).drt = s.drt := by unfold noteChannelRaise; split <;> rfl
@[simp] theorem noteChannelRaise_atu (c : Nat) (o : RaiseOutcome) : (noteChannelRaise c o s).atu = s.atu := by unfold noteChannelRaise; split <;> rfl
@[simp] theorem noteChannelRaise_link (c : Nat) (o : RaiseOutcome) : (noteChannelRaise c o s).link = s.link := by unfold noteChannelRaise; split <;> rfl
@[simp] theorem noteChannelRaise_scrubDue (c : Nat) (o : RaiseOutcome) : (noteChannelRaise c o s).scrubDue = s.scrubDue := by unfold noteChannelRaise; split <;> rfl
@[simp] theorem noteChannelRaise_liftDue (c : Nat) (o : RaiseOutcome) : (noteChannelRaise c o s).liftDue = s.liftDue := by unfold noteChannelRaise; split <;> rfl
@[simp] theorem noteChannelRaise_freeCount (c : Nat) (o : RaiseOutcome) : (noteChannelRaise c o s).freeCount = s.freeCount := by unfold noteChannelRaise; split <;> rfl
@[simp] theorem noteChannelRaise_pending (c : Nat) (o : RaiseOutcome) : (noteChannelRaise c o s).pending = s.pending := by unfold noteChannelRaise; split <;> rfl

@[simp] theorem restartIncidents_powered : (restartIncidents s).powered = s.powered := rfl
@[simp] theorem restartIncidents_resetPin : (restartIncidents s).resetPin = s.resetPin := rfl
@[simp] theorem restartIncidents_tripPins : (restartIncidents s).tripPins = s.tripPins := rfl
@[simp] theorem restartIncidents_rxd : (restartIncidents s).rxd = s.rxd := rfl
@[simp] theorem restartIncidents_clock : (restartIncidents s).clock = s.clock := rfl
@[simp] theorem restartIncidents_lds : (restartIncidents s).lds = s.lds := rfl
@[simp] theorem restartIncidents_store : (restartIncidents s).store = s.store := rfl
@[simp] theorem restartIncidents_trt : (restartIncidents s).trt = s.trt := rfl
@[simp] theorem restartIncidents_reg : (restartIncidents s).reg = s.reg := rfl
@[simp] theorem restartIncidents_gate : (restartIncidents s).gate = s.gate := rfl
@[simp] theorem restartIncidents_trc : (restartIncidents s).trc = s.trc := rfl
@[simp] theorem restartIncidents_anc : (restartIncidents s).anc = s.anc := rfl
@[simp] theorem restartIncidents_drt : (restartIncidents s).drt = s.drt := rfl
@[simp] theorem restartIncidents_atu : (restartIncidents s).atu = s.atu := rfl
@[simp] theorem restartIncidents_link : (restartIncidents s).link = s.link := rfl
@[simp] theorem restartIncidents_scrubDue : (restartIncidents s).scrubDue = s.scrubDue := rfl
@[simp] theorem restartIncidents_liftDue : (restartIncidents s).liftDue = s.liftDue := rfl
@[simp] theorem restartIncidents_freeCount : (restartIncidents s).freeCount = s.freeCount := rfl
@[simp] theorem restartIncidents_pending : (restartIncidents s).pending = s.pending := rfl

/-! ## The Announcement Controller, the Attention Unit and the link -/

@[simp] theorem setChannel_powered (st : Nat) (c : StationChannel) : (setChannel st c s).powered = s.powered := rfl
@[simp] theorem setChannel_resetPin (st : Nat) (c : StationChannel) : (setChannel st c s).resetPin = s.resetPin := rfl
@[simp] theorem setChannel_tripPins (st : Nat) (c : StationChannel) : (setChannel st c s).tripPins = s.tripPins := rfl
@[simp] theorem setChannel_rxd (st : Nat) (c : StationChannel) : (setChannel st c s).rxd = s.rxd := rfl
@[simp] theorem setChannel_clock (st : Nat) (c : StationChannel) : (setChannel st c s).clock = s.clock := rfl
@[simp] theorem setChannel_lds (st : Nat) (c : StationChannel) : (setChannel st c s).lds = s.lds := rfl
@[simp] theorem setChannel_store (st : Nat) (c : StationChannel) : (setChannel st c s).store = s.store := rfl
@[simp] theorem setChannel_trt (st : Nat) (c : StationChannel) : (setChannel st c s).trt = s.trt := rfl
@[simp] theorem setChannel_reg (st : Nat) (c : StationChannel) : (setChannel st c s).reg = s.reg := rfl
@[simp] theorem setChannel_gate (st : Nat) (c : StationChannel) : (setChannel st c s).gate = s.gate := rfl
@[simp] theorem setChannel_trc (st : Nat) (c : StationChannel) : (setChannel st c s).trc = s.trc := rfl
@[simp] theorem setChannel_inm (st : Nat) (c : StationChannel) : (setChannel st c s).inm = s.inm := rfl
@[simp] theorem setChannel_drt (st : Nat) (c : StationChannel) : (setChannel st c s).drt = s.drt := rfl
@[simp] theorem setChannel_atu (st : Nat) (c : StationChannel) : (setChannel st c s).atu = s.atu := rfl
@[simp] theorem setChannel_link (st : Nat) (c : StationChannel) : (setChannel st c s).link = s.link := rfl
@[simp] theorem setChannel_scrubDue (st : Nat) (c : StationChannel) : (setChannel st c s).scrubDue = s.scrubDue := rfl
@[simp] theorem setChannel_liftDue (st : Nat) (c : StationChannel) : (setChannel st c s).liftDue = s.liftDue := rfl
@[simp] theorem setChannel_freeCount (st : Nat) (c : StationChannel) : (setChannel st c s).freeCount = s.freeCount := rfl
@[simp] theorem setChannel_pending (st : Nat) (c : StationChannel) : (setChannel st c s).pending = s.pending := rfl

@[simp] theorem dropApproach_powered (n : Nat) : (dropApproach n s).powered = s.powered := rfl
@[simp] theorem dropApproach_resetPin (n : Nat) : (dropApproach n s).resetPin = s.resetPin := rfl
@[simp] theorem dropApproach_tripPins (n : Nat) : (dropApproach n s).tripPins = s.tripPins := rfl
@[simp] theorem dropApproach_rxd (n : Nat) : (dropApproach n s).rxd = s.rxd := rfl
@[simp] theorem dropApproach_clock (n : Nat) : (dropApproach n s).clock = s.clock := rfl
@[simp] theorem dropApproach_lds (n : Nat) : (dropApproach n s).lds = s.lds := rfl
@[simp] theorem dropApproach_store (n : Nat) : (dropApproach n s).store = s.store := rfl
@[simp] theorem dropApproach_trt (n : Nat) : (dropApproach n s).trt = s.trt := rfl
@[simp] theorem dropApproach_reg (n : Nat) : (dropApproach n s).reg = s.reg := rfl
@[simp] theorem dropApproach_gate (n : Nat) : (dropApproach n s).gate = s.gate := rfl
@[simp] theorem dropApproach_trc (n : Nat) : (dropApproach n s).trc = s.trc := rfl
@[simp] theorem dropApproach_inm (n : Nat) : (dropApproach n s).inm = s.inm := rfl
@[simp] theorem dropApproach_drt (n : Nat) : (dropApproach n s).drt = s.drt := rfl
@[simp] theorem dropApproach_atu (n : Nat) : (dropApproach n s).atu = s.atu := rfl
@[simp] theorem dropApproach_link (n : Nat) : (dropApproach n s).link = s.link := rfl
@[simp] theorem dropApproach_scrubDue (n : Nat) : (dropApproach n s).scrubDue = s.scrubDue := rfl
@[simp] theorem dropApproach_liftDue (n : Nat) : (dropApproach n s).liftDue = s.liftDue := rfl
@[simp] theorem dropApproach_freeCount (n : Nat) : (dropApproach n s).freeCount = s.freeCount := rfl
@[simp] theorem dropApproach_pending (n : Nat) : (dropApproach n s).pending = s.pending := rfl

@[simp] theorem setPending_powered (p : List Category) : (setPending p s).powered = s.powered := by unfold setPending; split <;> rfl
@[simp] theorem setPending_resetPin (p : List Category) : (setPending p s).resetPin = s.resetPin := by unfold setPending; split <;> rfl
@[simp] theorem setPending_tripPins (p : List Category) : (setPending p s).tripPins = s.tripPins := by unfold setPending; split <;> rfl
@[simp] theorem setPending_rxd (p : List Category) : (setPending p s).rxd = s.rxd := by unfold setPending; split <;> rfl
@[simp] theorem setPending_clock (p : List Category) : (setPending p s).clock = s.clock := by unfold setPending; split <;> rfl
@[simp] theorem setPending_lds (p : List Category) : (setPending p s).lds = s.lds := by unfold setPending; split <;> rfl
@[simp] theorem setPending_store (p : List Category) : (setPending p s).store = s.store := by unfold setPending; split <;> rfl
@[simp] theorem setPending_trt (p : List Category) : (setPending p s).trt = s.trt := by unfold setPending; split <;> rfl
@[simp] theorem setPending_reg (p : List Category) : (setPending p s).reg = s.reg := by unfold setPending; split <;> rfl
@[simp] theorem setPending_gate (p : List Category) : (setPending p s).gate = s.gate := by unfold setPending; split <;> rfl
@[simp] theorem setPending_trc (p : List Category) : (setPending p s).trc = s.trc := by unfold setPending; split <;> rfl
@[simp] theorem setPending_inm (p : List Category) : (setPending p s).inm = s.inm := by unfold setPending; split <;> rfl
@[simp] theorem setPending_anc (p : List Category) : (setPending p s).anc = s.anc := by unfold setPending; split <;> rfl
@[simp] theorem setPending_drt (p : List Category) : (setPending p s).drt = s.drt := by unfold setPending; split <;> rfl
@[simp] theorem setPending_scrubDue (p : List Category) : (setPending p s).scrubDue = s.scrubDue := by unfold setPending; split <;> rfl
@[simp] theorem setPending_liftDue (p : List Category) : (setPending p s).liftDue = s.liftDue := by unfold setPending; split <;> rfl
@[simp] theorem setPending_freeCount (p : List Category) : (setPending p s).freeCount = s.freeCount := by unfold setPending; split <;> rfl
@[simp] theorem setPending_pending (p : List Category) : (setPending p s).pending = s.pending := by unfold setPending; split <;> rfl

@[simp] theorem setCategory_powered (c : Category) (on : Bool) : (setCategory c on s).powered = s.powered := by unfold setCategory; split; rfl; simp
@[simp] theorem setCategory_resetPin (c : Category) (on : Bool) : (setCategory c on s).resetPin = s.resetPin := by unfold setCategory; split; rfl; simp
@[simp] theorem setCategory_tripPins (c : Category) (on : Bool) : (setCategory c on s).tripPins = s.tripPins := by unfold setCategory; split; rfl; simp
@[simp] theorem setCategory_rxd (c : Category) (on : Bool) : (setCategory c on s).rxd = s.rxd := by unfold setCategory; split; rfl; simp
@[simp] theorem setCategory_clock (c : Category) (on : Bool) : (setCategory c on s).clock = s.clock := by unfold setCategory; split; rfl; simp
@[simp] theorem setCategory_lds (c : Category) (on : Bool) : (setCategory c on s).lds = s.lds := by unfold setCategory; split; rfl; simp
@[simp] theorem setCategory_store (c : Category) (on : Bool) : (setCategory c on s).store = s.store := by unfold setCategory; split; rfl; simp
@[simp] theorem setCategory_trt (c : Category) (on : Bool) : (setCategory c on s).trt = s.trt := by unfold setCategory; split; rfl; simp
@[simp] theorem setCategory_reg (c : Category) (on : Bool) : (setCategory c on s).reg = s.reg := by unfold setCategory; split; rfl; simp
@[simp] theorem setCategory_gate (c : Category) (on : Bool) : (setCategory c on s).gate = s.gate := by unfold setCategory; split; rfl; simp
@[simp] theorem setCategory_trc (c : Category) (on : Bool) : (setCategory c on s).trc = s.trc := by unfold setCategory; split; rfl; simp
@[simp] theorem setCategory_inm (c : Category) (on : Bool) : (setCategory c on s).inm = s.inm := by unfold setCategory; split; rfl; simp
@[simp] theorem setCategory_anc (c : Category) (on : Bool) : (setCategory c on s).anc = s.anc := by unfold setCategory; split; rfl; simp
@[simp] theorem setCategory_drt (c : Category) (on : Bool) : (setCategory c on s).drt = s.drt := by unfold setCategory; split; rfl; simp
@[simp] theorem setCategory_scrubDue (c : Category) (on : Bool) : (setCategory c on s).scrubDue = s.scrubDue := by unfold setCategory; split; rfl; simp
@[simp] theorem setCategory_liftDue (c : Category) (on : Bool) : (setCategory c on s).liftDue = s.liftDue := by unfold setCategory; split; rfl; simp
@[simp] theorem setCategory_freeCount (c : Category) (on : Bool) : (setCategory c on s).freeCount = s.freeCount := by unfold setCategory; split; rfl; simp
@[simp] theorem setCategory_pending (c : Category) (on : Bool) : (setCategory c on s).pending = s.pending := by unfold setCategory; split; rfl; simp

@[simp] theorem report_powered (c : Category) : (report c s).powered = s.powered := by unfold report; simp
@[simp] theorem report_resetPin (c : Category) : (report c s).resetPin = s.resetPin := by unfold report; simp
@[simp] theorem report_tripPins (c : Category) : (report c s).tripPins = s.tripPins := by unfold report; simp
@[simp] theorem report_rxd (c : Category) : (report c s).rxd = s.rxd := by unfold report; simp
@[simp] theorem report_clock (c : Category) : (report c s).clock = s.clock := by unfold report; simp
@[simp] theorem report_lds (c : Category) : (report c s).lds = s.lds := by unfold report; simp
@[simp] theorem report_store (c : Category) : (report c s).store = s.store := by unfold report; simp
@[simp] theorem report_trt (c : Category) : (report c s).trt = s.trt := by unfold report; simp
@[simp] theorem report_reg (c : Category) : (report c s).reg = s.reg := by unfold report; simp
@[simp] theorem report_gate (c : Category) : (report c s).gate = s.gate := by unfold report; simp
@[simp] theorem report_trc (c : Category) : (report c s).trc = s.trc := by unfold report; simp
@[simp] theorem report_inm (c : Category) : (report c s).inm = s.inm := by unfold report; simp
@[simp] theorem report_anc (c : Category) : (report c s).anc = s.anc := by unfold report; simp
@[simp] theorem report_drt (c : Category) : (report c s).drt = s.drt := by unfold report; simp
@[simp] theorem report_scrubDue (c : Category) : (report c s).scrubDue = s.scrubDue := by unfold report; simp
@[simp] theorem report_liftDue (c : Category) : (report c s).liftDue = s.liftDue := by unfold report; simp
@[simp] theorem report_freeCount (c : Category) : (report c s).freeCount = s.freeCount := by unfold report; simp
@[simp] theorem report_pending (c : Category) : (report c s).pending = s.pending := by unfold report; simp

@[simp] theorem queueOrder_powered (o : Order) : (queueOrder o s).powered = s.powered := by unfold queueOrder; split; rfl; simp
@[simp] theorem queueOrder_resetPin (o : Order) : (queueOrder o s).resetPin = s.resetPin := by unfold queueOrder; split; rfl; simp
@[simp] theorem queueOrder_tripPins (o : Order) : (queueOrder o s).tripPins = s.tripPins := by unfold queueOrder; split; rfl; simp
@[simp] theorem queueOrder_rxd (o : Order) : (queueOrder o s).rxd = s.rxd := by unfold queueOrder; split; rfl; simp
@[simp] theorem queueOrder_clock (o : Order) : (queueOrder o s).clock = s.clock := by unfold queueOrder; split; rfl; simp
@[simp] theorem queueOrder_lds (o : Order) : (queueOrder o s).lds = s.lds := by unfold queueOrder; split; rfl; simp
@[simp] theorem queueOrder_store (o : Order) : (queueOrder o s).store = s.store := by unfold queueOrder; split; rfl; simp
@[simp] theorem queueOrder_trt (o : Order) : (queueOrder o s).trt = s.trt := by unfold queueOrder; split; rfl; simp
@[simp] theorem queueOrder_reg (o : Order) : (queueOrder o s).reg = s.reg := by unfold queueOrder; split; rfl; simp
@[simp] theorem queueOrder_gate (o : Order) : (queueOrder o s).gate = s.gate := by unfold queueOrder; split; rfl; simp
@[simp] theorem queueOrder_trc (o : Order) : (queueOrder o s).trc = s.trc := by unfold queueOrder; split; rfl; simp
@[simp] theorem queueOrder_inm (o : Order) : (queueOrder o s).inm = s.inm := by unfold queueOrder; split; rfl; simp
@[simp] theorem queueOrder_anc (o : Order) : (queueOrder o s).anc = s.anc := by unfold queueOrder; split; rfl; simp
@[simp] theorem queueOrder_drt (o : Order) : (queueOrder o s).drt = s.drt := by unfold queueOrder; split; rfl; simp
@[simp] theorem queueOrder_scrubDue (o : Order) : (queueOrder o s).scrubDue = s.scrubDue := by unfold queueOrder; split; rfl; simp
@[simp] theorem queueOrder_liftDue (o : Order) : (queueOrder o s).liftDue = s.liftDue := by unfold queueOrder; split; rfl; simp
@[simp] theorem queueOrder_freeCount (o : Order) : (queueOrder o s).freeCount = s.freeCount := by unfold queueOrder; split; rfl; simp
@[simp] theorem queueOrder_pending (o : Order) : (queueOrder o s).pending = s.pending := by unfold queueOrder; split; rfl; simp

@[simp] theorem discardFrame_powered : (discardFrame s).powered = s.powered := by unfold discardFrame; simp
@[simp] theorem discardFrame_resetPin : (discardFrame s).resetPin = s.resetPin := by unfold discardFrame; simp
@[simp] theorem discardFrame_tripPins : (discardFrame s).tripPins = s.tripPins := by unfold discardFrame; simp
@[simp] theorem discardFrame_rxd : (discardFrame s).rxd = s.link.frame.map (.byte 0) ++ s.rxd := by unfold discardFrame; simp
@[simp] theorem discardFrame_clock : (discardFrame s).clock = s.clock := by unfold discardFrame; simp
@[simp] theorem discardFrame_lds : (discardFrame s).lds = s.lds := by unfold discardFrame; simp
@[simp] theorem discardFrame_store : (discardFrame s).store = s.store := by unfold discardFrame; simp
@[simp] theorem discardFrame_trt : (discardFrame s).trt = s.trt := by unfold discardFrame; simp
@[simp] theorem discardFrame_reg : (discardFrame s).reg = s.reg := by unfold discardFrame; simp
@[simp] theorem discardFrame_gate : (discardFrame s).gate = s.gate := by unfold discardFrame; simp
@[simp] theorem discardFrame_trc : (discardFrame s).trc = s.trc := by unfold discardFrame; simp
@[simp] theorem discardFrame_inm : (discardFrame s).inm = s.inm := by unfold discardFrame; simp
@[simp] theorem discardFrame_anc : (discardFrame s).anc = s.anc := by unfold discardFrame; simp
@[simp] theorem discardFrame_drt : (discardFrame s).drt = s.drt := by unfold discardFrame; simp
@[simp] theorem discardFrame_scrubDue : (discardFrame s).scrubDue = s.scrubDue := by unfold discardFrame; simp
@[simp] theorem discardFrame_liftDue : (discardFrame s).liftDue = s.liftDue := by unfold discardFrame; simp
@[simp] theorem discardFrame_freeCount : (discardFrame s).freeCount = s.freeCount := by unfold discardFrame; simp
@[simp] theorem discardFrame_pending : (discardFrame s).pending = s.pending := by unfold discardFrame; simp

@[simp] theorem recordRefusal_powered (d : Nat) (k : ReqKind) (l : Level) (a : Option Nat) : (recordRefusal d k l a s).powered = s.powered := by unfold recordRefusal; simp
@[simp] theorem recordRefusal_resetPin (d : Nat) (k : ReqKind) (l : Level) (a : Option Nat) : (recordRefusal d k l a s).resetPin = s.resetPin := by unfold recordRefusal; simp
@[simp] theorem recordRefusal_tripPins (d : Nat) (k : ReqKind) (l : Level) (a : Option Nat) : (recordRefusal d k l a s).tripPins = s.tripPins := by unfold recordRefusal; simp
@[simp] theorem recordRefusal_rxd (d : Nat) (k : ReqKind) (l : Level) (a : Option Nat) : (recordRefusal d k l a s).rxd = s.rxd := by unfold recordRefusal; simp
@[simp] theorem recordRefusal_clock (d : Nat) (k : ReqKind) (l : Level) (a : Option Nat) : (recordRefusal d k l a s).clock = s.clock := by unfold recordRefusal; simp
@[simp] theorem recordRefusal_lds (d : Nat) (k : ReqKind) (l : Level) (a : Option Nat) : (recordRefusal d k l a s).lds = s.lds := by unfold recordRefusal; simp
@[simp] theorem recordRefusal_store (d : Nat) (k : ReqKind) (l : Level) (a : Option Nat) : (recordRefusal d k l a s).store = s.store := by unfold recordRefusal; simp
@[simp] theorem recordRefusal_trt (d : Nat) (k : ReqKind) (l : Level) (a : Option Nat) : (recordRefusal d k l a s).trt = s.trt := by unfold recordRefusal; simp
@[simp] theorem recordRefusal_reg (d : Nat) (k : ReqKind) (l : Level) (a : Option Nat) : (recordRefusal d k l a s).reg = s.reg := by unfold recordRefusal; simp
@[simp] theorem recordRefusal_gate (d : Nat) (k : ReqKind) (l : Level) (a : Option Nat) : (recordRefusal d k l a s).gate = s.gate := by unfold recordRefusal; simp
@[simp] theorem recordRefusal_trc (d : Nat) (k : ReqKind) (l : Level) (a : Option Nat) : (recordRefusal d k l a s).trc = s.trc := by unfold recordRefusal; simp
@[simp] theorem recordRefusal_inm (d : Nat) (k : ReqKind) (l : Level) (a : Option Nat) : (recordRefusal d k l a s).inm = s.inm := by unfold recordRefusal; simp
@[simp] theorem recordRefusal_anc (d : Nat) (k : ReqKind) (l : Level) (a : Option Nat) : (recordRefusal d k l a s).anc = s.anc := by unfold recordRefusal; simp
@[simp] theorem recordRefusal_scrubDue (d : Nat) (k : ReqKind) (l : Level) (a : Option Nat) : (recordRefusal d k l a s).scrubDue = s.scrubDue := by unfold recordRefusal; simp
@[simp] theorem recordRefusal_liftDue (d : Nat) (k : ReqKind) (l : Level) (a : Option Nat) : (recordRefusal d k l a s).liftDue = s.liftDue := by unfold recordRefusal; simp
@[simp] theorem recordRefusal_freeCount (d : Nat) (k : ReqKind) (l : Level) (a : Option Nat) : (recordRefusal d k l a s).freeCount = s.freeCount := by unfold recordRefusal; simp
@[simp] theorem recordRefusal_pending (d : Nat) (k : ReqKind) (l : Level) (a : Option Nat) : (recordRefusal d k l a s).pending = s.pending := by unfold recordRefusal; simp

@[simp] theorem refreshIncidents_powered : (refreshIncidents s).powered = s.powered := by unfold refreshIncidents; simp
@[simp] theorem refreshIncidents_resetPin : (refreshIncidents s).resetPin = s.resetPin := by unfold refreshIncidents; simp
@[simp] theorem refreshIncidents_tripPins : (refreshIncidents s).tripPins = s.tripPins := by unfold refreshIncidents; simp
@[simp] theorem refreshIncidents_rxd : (refreshIncidents s).rxd = s.rxd := by unfold refreshIncidents; simp
@[simp] theorem refreshIncidents_clock : (refreshIncidents s).clock = s.clock := by unfold refreshIncidents; simp
@[simp] theorem refreshIncidents_lds : (refreshIncidents s).lds = s.lds := by unfold refreshIncidents; simp
@[simp] theorem refreshIncidents_store : (refreshIncidents s).store = s.store := by unfold refreshIncidents; simp
@[simp] theorem refreshIncidents_trt : (refreshIncidents s).trt = s.trt := by unfold refreshIncidents; simp
@[simp] theorem refreshIncidents_reg : (refreshIncidents s).reg = s.reg := by unfold refreshIncidents; simp
@[simp] theorem refreshIncidents_gate : (refreshIncidents s).gate = s.gate := by unfold refreshIncidents; simp
@[simp] theorem refreshIncidents_trc : (refreshIncidents s).trc = s.trc := by unfold refreshIncidents; simp
@[simp] theorem refreshIncidents_anc : (refreshIncidents s).anc = s.anc := by unfold refreshIncidents; simp
@[simp] theorem refreshIncidents_drt : (refreshIncidents s).drt = s.drt := by unfold refreshIncidents; simp
@[simp] theorem refreshIncidents_scrubDue : (refreshIncidents s).scrubDue = s.scrubDue := by unfold refreshIncidents; simp
@[simp] theorem refreshIncidents_liftDue : (refreshIncidents s).liftDue = s.liftDue := by unfold refreshIncidents; simp
@[simp] theorem refreshIncidents_freeCount : (refreshIncidents s).freeCount = s.freeCount := by unfold refreshIncidents; simp
@[simp] theorem refreshIncidents_pending : (refreshIncidents s).pending = s.pending := by unfold refreshIncidents; simp

@[simp] theorem modLink_powered (f : Link → Link) : (modLink f s).powered = s.powered := rfl
@[simp] theorem modLink_resetPin (f : Link → Link) : (modLink f s).resetPin = s.resetPin := rfl
@[simp] theorem modLink_tripPins (f : Link → Link) : (modLink f s).tripPins = s.tripPins := rfl
@[simp] theorem modLink_rxd (f : Link → Link) : (modLink f s).rxd = s.rxd := rfl
@[simp] theorem modLink_clock (f : Link → Link) : (modLink f s).clock = s.clock := rfl
@[simp] theorem modLink_lds (f : Link → Link) : (modLink f s).lds = s.lds := rfl
@[simp] theorem modLink_store (f : Link → Link) : (modLink f s).store = s.store := rfl
@[simp] theorem modLink_trt (f : Link → Link) : (modLink f s).trt = s.trt := rfl
@[simp] theorem modLink_reg (f : Link → Link) : (modLink f s).reg = s.reg := rfl
@[simp] theorem modLink_gate (f : Link → Link) : (modLink f s).gate = s.gate := rfl
@[simp] theorem modLink_trc (f : Link → Link) : (modLink f s).trc = s.trc := rfl
@[simp] theorem modLink_inm (f : Link → Link) : (modLink f s).inm = s.inm := rfl
@[simp] theorem modLink_anc (f : Link → Link) : (modLink f s).anc = s.anc := rfl
@[simp] theorem modLink_drt (f : Link → Link) : (modLink f s).drt = s.drt := rfl
@[simp] theorem modLink_atu (f : Link → Link) : (modLink f s).atu = s.atu := rfl
@[simp] theorem modLink_scrubDue (f : Link → Link) : (modLink f s).scrubDue = s.scrubDue := rfl
@[simp] theorem modLink_liftDue (f : Link → Link) : (modLink f s).liftDue = s.liftDue := rfl
@[simp] theorem modLink_freeCount (f : Link → Link) : (modLink f s).freeCount = s.freeCount := rfl
@[simp] theorem modLink_pending (f : Link → Link) : (modLink f s).pending = s.pending := rfl

@[simp] theorem putReply_powered (tag : Nat) (r : Reply) : (putReply tag r s).powered = s.powered := rfl
@[simp] theorem putReply_resetPin (tag : Nat) (r : Reply) : (putReply tag r s).resetPin = s.resetPin := rfl
@[simp] theorem putReply_tripPins (tag : Nat) (r : Reply) : (putReply tag r s).tripPins = s.tripPins := rfl
@[simp] theorem putReply_rxd (tag : Nat) (r : Reply) : (putReply tag r s).rxd = s.rxd := rfl
@[simp] theorem putReply_clock (tag : Nat) (r : Reply) : (putReply tag r s).clock = s.clock := rfl
@[simp] theorem putReply_lds (tag : Nat) (r : Reply) : (putReply tag r s).lds = s.lds := rfl
@[simp] theorem putReply_store (tag : Nat) (r : Reply) : (putReply tag r s).store = s.store := rfl
@[simp] theorem putReply_trt (tag : Nat) (r : Reply) : (putReply tag r s).trt = s.trt := rfl
@[simp] theorem putReply_reg (tag : Nat) (r : Reply) : (putReply tag r s).reg = s.reg := rfl
@[simp] theorem putReply_gate (tag : Nat) (r : Reply) : (putReply tag r s).gate = s.gate := rfl
@[simp] theorem putReply_trc (tag : Nat) (r : Reply) : (putReply tag r s).trc = s.trc := rfl
@[simp] theorem putReply_inm (tag : Nat) (r : Reply) : (putReply tag r s).inm = s.inm := rfl
@[simp] theorem putReply_anc (tag : Nat) (r : Reply) : (putReply tag r s).anc = s.anc := rfl
@[simp] theorem putReply_drt (tag : Nat) (r : Reply) : (putReply tag r s).drt = s.drt := rfl
@[simp] theorem putReply_atu (tag : Nat) (r : Reply) : (putReply tag r s).atu = s.atu := rfl
@[simp] theorem putReply_scrubDue (tag : Nat) (r : Reply) : (putReply tag r s).scrubDue = s.scrubDue := rfl
@[simp] theorem putReply_liftDue (tag : Nat) (r : Reply) : (putReply tag r s).liftDue = s.liftDue := rfl
@[simp] theorem putReply_freeCount (tag : Nat) (r : Reply) : (putReply tag r s).freeCount = s.freeCount := rfl
@[simp] theorem putReply_pending (tag : Nat) (r : Reply) : (putReply tag r s).pending = s.pending := rfl

@[simp] theorem frameTaken_powered : (frameTaken s).powered = s.powered := rfl
@[simp] theorem frameTaken_resetPin : (frameTaken s).resetPin = s.resetPin := rfl
@[simp] theorem frameTaken_tripPins : (frameTaken s).tripPins = s.tripPins := rfl
@[simp] theorem frameTaken_rxd : (frameTaken s).rxd = s.rxd := rfl
@[simp] theorem frameTaken_clock : (frameTaken s).clock = s.clock := rfl
@[simp] theorem frameTaken_lds : (frameTaken s).lds = s.lds := rfl
@[simp] theorem frameTaken_store : (frameTaken s).store = s.store := rfl
@[simp] theorem frameTaken_trt : (frameTaken s).trt = s.trt := rfl
@[simp] theorem frameTaken_reg : (frameTaken s).reg = s.reg := rfl
@[simp] theorem frameTaken_gate : (frameTaken s).gate = s.gate := rfl
@[simp] theorem frameTaken_trc : (frameTaken s).trc = s.trc := rfl
@[simp] theorem frameTaken_inm : (frameTaken s).inm = s.inm := rfl
@[simp] theorem frameTaken_anc : (frameTaken s).anc = s.anc := rfl
@[simp] theorem frameTaken_drt : (frameTaken s).drt = s.drt := rfl
@[simp] theorem frameTaken_atu : (frameTaken s).atu = s.atu := rfl
@[simp] theorem frameTaken_scrubDue : (frameTaken s).scrubDue = s.scrubDue := rfl
@[simp] theorem frameTaken_liftDue : (frameTaken s).liftDue = s.liftDue := rfl
@[simp] theorem frameTaken_freeCount : (frameTaken s).freeCount = s.freeCount := rfl
@[simp] theorem frameTaken_pending : (frameTaken s).pending = s.pending := rfl

end Sys2Proof.Machine
end

