-- ==== Sys2Proof/Laws/Table.lean ====
section
/-! SUPPORT. The laws of the shared structures: numbered tables, stable insertion, sets, and the banks of records. -/

namespace Sys2Proof.Machine

variable {α β : Type}

/-! ## Tables -/

@[simp] theorem tget_nil (k : Nat) : tget ([] : Table α) k = none := rfl

theorem tget_cons (p : Nat × α) (t : Table α) (k : Nat) : tget (p :: t) k = if p.1 = k then some p.2 else tget t k := rfl

theorem tget_tput_self (t : Table α) (k : Nat) (v : α) : tget (tput t k v) k = some v := by
  induction t with
  | nil => simp [tput, tget]
  | cons p t ih =>
    unfold tput
    split
    · simp [tget_cons]
    · split
      · simp [tget_cons]
      · next h => simp [tget_cons, Ne.symm h, ih]

theorem tget_tput_ne (t : Table α) {k j : Nat} (v : α) (h : j ≠ k) : tget (tput t k v) j = tget t j := by
  induction t with
  | nil => simp [tput, tget, Ne.symm h]
  | cons p t ih =>
    unfold tput
    split
    · simp [tget_cons, Ne.symm h]
    · split
      · next e => simp [tget_cons, Ne.symm h, ← e]
      · simp [tget_cons, ih]

theorem tget_tput (t : Table α) (k j : Nat) (v : α) : tget (tput t k v) j = if j = k then some v else tget t j := by
  split
  · next h => subst h; exact tget_tput_self ..
  · next h => exact tget_tput_ne _ _ h

theorem tget_tdel (t : Table α) (k j : Nat) : tget (tdel t k) j = if j = k then none else tget t j := by
  induction t with
  | nil => simp [tdel]
  | cons p t ih =>
    unfold tdel at *
    by_cases h : p.1 = k
    · by_cases hj : j = k
      · simp [h, hj] at ih ⊢; simpa [hj] using ih
      · have : p.1 ≠ j := fun e => hj (e ▸ h)
        simp [h, hj, tget_cons] at ih ⊢
        simp [ih]; omega
    · by_cases hj : j = k
      · simp [h, hj, tget_cons] at ih ⊢; exact ih
      · simp [h, hj, tget_cons] at ih ⊢; rw [ih]

theorem tget_tmod (t : Table α) (k j : Nat) (f : α → α) : tget (tmod t k f) j = (tget t j).map (fun a => if j = k then f a else a) := by
  induction t with
  | nil => simp [tmod]
  | cons p t ih =>
    unfold tmod at *
    by_cases h : p.1 = k
    · by_cases hj : p.1 = j
      · simp [h, tget_cons, ← hj]
      · simp [h, tget_cons, ih]; by_cases e : k = j
        · exact absurd (h.trans e) hj
        · simp [e]
    · by_cases hj : p.1 = j
      · simp [h, tget_cons, ← hj]
      · simp [h, tget_cons, hj, ih]

theorem tget_tmap (t : Table α) (f : Nat → α → β) (j : Nat) : tget (tmap t f) j = (tget t j).map (f j) := by
  induction t with
  | nil => simp [tmap]
  | cons p t ih =>
    unfold tmap at *
    by_cases hj : p.1 = j
    · simp [tget_cons, hj]
    · simp [tget_cons, hj, ih]

@[simp] theorem tkeys_tmod (t : Table α) (k : Nat) (f : α → α) : tkeys (tmod t k f) = tkeys t := by
  unfold tkeys tmod
  rw [List.map_map]
  apply List.map_congr_left
  intro p _
  by_cases h : p.1 = k <;> simp [h]

@[simp] theorem tkeys_tmap (t : Table α) (f : Nat → α → β) : tkeys (tmap t f) = tkeys t := by
  simp [tkeys, tmap]

@[simp] theorem length_tmod (t : Table α) (k : Nat) (f : α → α) : (tmod t k f).length = t.length := by simp [tmod]

@[simp] theorem length_tmap (t : Table α) (f : Nat → α → β) : (tmap t f).length = t.length := by simp [tmap]

theorem mem_tput {t : Table α} {k : Nat} {v : α} {p : Nat × α} (h : p ∈ tput t k v) : p = (k, v) ∨ p ∈ t := by
  induction t with
  | nil => simpa [tput] using h
  | cons q t ih =>
    unfold tput at h
    split at h
    · simpa using h
    · split at h
      · rcases List.mem_cons.1 h with h | h
        · exact .inl h
        · exact .inr (List.mem_cons_of_mem _ h)
      · rcases List.mem_cons.1 h with h | h
        · exact .inr (h ▸ List.mem_cons_self)
        · exact (ih h).imp id (List.mem_cons_of_mem _)

theorem mem_of_tget {t : Table α} {k : Nat} {a : α} (h : tget t k = some a) : (k, a) ∈ t := by
  induction t with
  | nil => simp at h
  | cons p t ih =>
    rw [tget_cons] at h
    split at h
    · next e => cases h; subst e; exact List.mem_cons_self
    · exact List.mem_cons_of_mem _ (ih h)

/-- Putting a record where one stands keeps the numbers. -/
theorem tkeys_tput {t : Table α} (hw : twf t = true) {k : Nat} (v : α) (h : (tget t k).isSome) : tkeys (tput t k v) = tkeys t := by
  induction t with
  | nil => simp at h
  | cons p t ih =>
    have hp : (p :: t).Pairwise (fun a b => a.1 < b.1) := of_decide_eq_true hw
    rw [List.pairwise_cons] at hp
    unfold tput
    split
    · next hk =>
      exfalso
      rw [tget_cons, if_neg (by omega)] at h
      obtain ⟨a, ha⟩ := Option.isSome_iff_exists.1 h
      have := hp.1 _ (mem_of_tget ha)
      simp at this; omega
    · split
      · next e => simp [tkeys, e]
      · next e =>
        rw [tget_cons, if_neg (Ne.symm e)] at h
        simpa [tkeys] using ih (decide_eq_true hp.2) h

theorem twf_iff {t : Table α} : twf t = true ↔ t.Pairwise (fun p q => p.1 < q.1) := decide_eq_true_iff

theorem twf_tput {t : Table α} (h : twf t = true) (k : Nat) (v : α) : twf (tput t k v) = true := by
  rw [twf_iff] at *
  induction t with
  | nil => simp [tput]
  | cons p t ih =>
    have hp := List.pairwise_cons.1 h
    unfold tput
    split
    · next hk =>
      refine List.pairwise_cons.2 ⟨fun q hq => ?_, h⟩
      rcases List.mem_cons.1 hq with e | hq
      · rw [e]; exact hk
      · exact lt_trans hk (hp.1 q hq)
    · split
      · next e => exact List.pairwise_cons.2 ⟨fun q hq => by simpa [e] using hp.1 q hq, hp.2⟩
      · next hk e =>
        refine List.pairwise_cons.2 ⟨fun q hq => ?_, ih hp.2⟩
        rcases mem_tput hq with rfl | hq
        · show p.1 < k; omega
        · exact hp.1 q hq

theorem twf_tdel {t : Table α} (h : twf t = true) (k : Nat) : twf (tdel t k) = true := by
  rw [twf_iff] at *
  exact h.filter _

theorem twf_of_keys {t : Table α} {u : Table β} (hk : tkeys u = tkeys t) (h : twf t = true) : twf u = true := by
  rw [twf_iff] at *
  have : (tkeys u).Pairwise (· < ·) := by rw [hk]; exact List.pairwise_map.2 h
  exact List.pairwise_map.1 this

theorem twf_tmod {t : Table α} (h : twf t = true) (k : Nat) (f : α → α) : twf (tmod t k f) = true := twf_of_keys (tkeys_tmod ..) h

theorem twf_tmap {t : Table α} (h : twf t = true) (f : Nat → α → β) : twf (tmap t f) = true := twf_of_keys (tkeys_tmap ..) h

theorem length_tput_le (t : Table α) (k : Nat) (v : α) : (tput t k v).length ≤ t.length + 1 := by
  induction t with
  | nil => simp [tput]
  | cons p t ih => unfold tput; split <;> [skip; split] <;> simp <;> omega

theorem length_tdel_le (t : Table α) (k : Nat) : (tdel t k).length ≤ t.length := List.length_filter_le ..

theorem mem_tmod {t : Table α} {k : Nat} {f : α → α} {p : Nat × α} (h : p ∈ tmod t k f) :
    ∃ q ∈ t, p.1 = q.1 ∧ (p.2 = q.2 ∨ (q.1 = k ∧ p.2 = f q.2)) := by
  unfold tmod at h
  obtain ⟨q, hq, e⟩ := List.mem_map.1 h
  refine ⟨q, hq, ?_⟩
  by_cases hk : q.1 = k
  · rw [if_pos hk] at e; subst e; exact ⟨rfl, .inr ⟨hk, rfl⟩⟩
  · rw [if_neg hk] at e; subst e; exact ⟨rfl, .inl rfl⟩

theorem mem_tmap {t : Table α} {f : Nat → α → β} {p : Nat × β} (h : p ∈ tmap t f) : ∃ q ∈ t, p = (q.1, f q.1 q.2) := by
  unfold tmap at h
  obtain ⟨q, hq, e⟩ := List.mem_map.1 h
  exact ⟨q, hq, e.symm⟩

/-! ## Stable insertion -/

@[simp] theorem length_insertBy (le : α → α → Bool) (a : α) (l : List α) : (insertBy le a l).length = l.length + 1 := by
  induction l with
  | nil => rfl
  | cons b l ih => unfold insertBy; split <;> simp [ih]

theorem insertBy_perm (le : α → α → Bool) (a : α) (l : List α) : (insertBy le a l).Perm (a :: l) := by
  induction l with
  | nil => exact .refl _
  | cons b l ih =>
    unfold insertBy
    split
    · exact .refl _
    · exact (ih.cons b).trans (.swap a b l)

theorem mem_insertBy {le : α → α → Bool} {a b : α} {l : List α} : b ∈ insertBy le a l ↔ b = a ∨ b ∈ l := by
  rw [(insertBy_perm le a l).mem_iff, List.mem_cons]

theorem sortBy_perm (le : α → α → Bool) (l : List α) : (sortBy le l).Perm l := by
  induction l with
  | nil => exact .refl _
  | cons a l ih => exact (insertBy_perm ..).trans (ih.cons a)

/-- Inserting into a list in the order of `r` leaves it so, where `le` decides `r` one way and its failure the other. -/
theorem insertBy_pairwise {le : α → α → Bool} {r : α → α → Prop} {a : α} {l : List α} (htr : ∀ x y z, r x y → r y z → r x z)
    (hle : ∀ b ∈ l, le a b = true → r a b) (hge : ∀ b ∈ l, le a b = false → r b a) (h : l.Pairwise r) :
    (insertBy le a l).Pairwise r := by
  induction l with
  | nil => simp [insertBy]
  | cons b l ih =>
    have hp := List.pairwise_cons.1 h
    unfold insertBy
    split
    · next e =>
      have hab := hle b List.mem_cons_self e
      refine List.pairwise_cons.2 ⟨fun x hx => ?_, h⟩
      rcases List.mem_cons.1 hx with rfl | hx
      · exact hab
      · exact htr _ _ _ hab (hp.1 x hx)
    · next e =>
      refine List.pairwise_cons.2 ⟨fun x hx => ?_, ih (fun c hc => hle c (List.mem_cons_of_mem _ hc))
        (fun c hc => hge c (List.mem_cons_of_mem _ hc)) hp.2⟩
      rcases mem_insertBy.1 hx with rfl | hx
      · exact hge b List.mem_cons_self (by simpa using e)
      · exact hp.1 x hx

/-! ## Sets and banks -/

theorem mem_normSet {n i : Nat} {l : List Nat} : i ∈ normSet n l ↔ i < n ∧ i ∈ l := by simp [normSet]

@[simp] theorem getElem?_vmod {n : Nat} (v : Vector α n) (i j : Nat) (f : α → α) :
    (vmod v i f)[j]? = (v[j]?).map (fun a => if j = i then f a else a) := by
  simp only [vmod, Vector.getElem?_mapIdx]

/-! ## Arithmetic -/

theorem clampInt_bounds {lo hi v : Int} (h : lo ≤ hi) : lo ≤ clampInt lo hi v ∧ clampInt lo hi v ≤ hi := by
  unfold clampInt; split
  · omega
  · split <;> omega

theorem clampNat_bounds {lo hi v : Nat} (h : lo ≤ hi) : lo ≤ clampNat lo hi v ∧ clampNat lo hi v ≤ hi := by
  unfold clampNat; split
  · omega
  · split <;> omega

theorem satSucc_le {limit n : Nat} (h : n ≤ limit) : satSucc limit n ≤ limit := by unfold satSucc; split <;> omega

/-- The signed difference of two service times lies in its range (00 'Time'). -/
theorem svcDiff_bounds (a b : Int) : -432000 ≤ svcDiff a b ∧ svcDiff a b ≤ 431999 := by unfold svcDiff; omega

theorem serviceTime_lt (c : Clock) : c.serviceTime < 864000 := by
  unfold Clock.serviceTime
  have h1 := Int.emod_lt_of_pos ((c.timeOfDay : Int) - (c.serviceOrigin : Int) * 36000) (by norm_num : (0 : Int) < 864000)
  have h2 := Int.emod_nonneg ((c.timeOfDay : Int) - (c.serviceOrigin : Int) * 36000) (by norm_num : (864000 : Int) ≠ 0)
  change ((c.timeOfDay : Int) - (c.serviceOrigin : Int) * 36000).emod 864000 < 864000 at h1
  omega

end Sys2Proof.Machine
end

