-- ==== Sys2Proof/Laws/Acts.lean ====
section
/-! SUPPORT. What the blocks' operations on one another can do, said once: `Act` lists the elementary changes with what each keeps,
`Acts` their sequences, and `Settles` the sequences after which the followed categories and LINE STOP stand as they should. -/

namespace Sys2Proof.Machine

open Relation (ReflTransGen)

/-! ## Elementary acts -/

/-- Which acts are allowed: `loud` ones change what the incident categories follow, `moving` ones move trains. -/
structure Perm where
  loud : Bool
  moving : Bool

/-- What decides a trip's place in the store and the store's size (R34). -/
def Trip.key (t : Trip) : Nat × Nat × Nat := (t.number, t.firstSd, t.entries.length)

/-- The store as an act may leave it. -/
structure StoreKept (a b : Store) : Prop where
  wear : b.wear = a.wear
  corrected : a.corrected ≤ 255 → b.corrected ≤ 255
  keys : b.trips.map Trip.key = a.trips.map Trip.key

/-- Where the trains are. -/
def whereabouts (t : Table Train) : List (Nat × Location) := t.map (fun q => (q.1, q.2.loc))

/-- Every arbiter's units in use are those of its grants (R98). -/
def Balanced (t : Table Arbiter) : Prop := ∀ p ∈ t, p.2.inUse = unitsOf p.2.grants

/-- No section owes more than 8 provings (R124). -/
def OwedOk (t : Table SectRec) : Prop := ∀ p ∈ t, p.2.owed ≤ 8

/-- What the incident categories and LINE STOP follow is the same (R150, R151). -/
structure SameSigns (a b : Inm) : Prop where
  lineStop : b.lineStop = a.lineStop
  tableFull : b.tableFull = a.tableFull
  alarms : ∀ v, unacknowledged b v = unacknowledged a v
  emergency : severityInForce b (fun v => v = .emergency) = severityInForce a (fun v => v = .emergency)

open Sys2Proof.Safety in
/-- The Incident Manager as an act may leave it. -/
structure InmKept (a b : Inm) : Prop where
  kinds : b.kinds = a.kinds
  effective : tkeys b.effective = tkeys a.effective
  room : a.incidents.length ≤ 32 → b.incidents.length ≤ 32
  canonical : twf a.incidents = true → twf b.incidents = true
  each : OneEntryEach a.incidents → OneEntryEach b.incidents

/-- No station queue holds more than 8 entries (R160). -/
def QueuesOk (t : Table StationChannel) : Prop := ∀ p ∈ t, p.2.queue.length ≤ 8

/-- The channels as an act may leave them. -/
structure ChannelsKept (a b : Table StationChannel) : Prop where
  has : ∀ n, thas b n = thas a n
  canonical : twf a = true → twf b = true
  queues : QueuesOk a → QueuesOk b

/-- The elementary acts. -/
inductive Act (p : Perm) (s : State) : State → Prop
  | category (c : Category) (on : Bool) : Act p s (setCategory c on s)
  | order (o : Order) (h : s.link.outbound.length < Config.maxOutbound) :
      Act p s { s with link := { s.link with outbound := s.link.outbound ++ [o] } }
  | store (st : Store) (h : StoreKept s.store st) : Act p s { s with store := st }
  | trains (t : Table Train) (hk : tkeys t = tkeys s.trt.trains)
      (hl : p.moving = true ∨ whereabouts t = whereabouts s.trt.trains) : Act p s { s with trt := { s.trt with trains := t } }
  | occupancy (t : Table Nat) (hk : tkeys t = tkeys s.trt.occupancy) (hm : p.moving = true) :
      Act p s { s with trt := { s.trt with occupancy := t } }
  | regulator (h : Table Headway) (l : Table LastReg) (m : Table MergeRec) (hh : twf s.reg.headways = true → twf h = true)
      (hl : twf s.reg.lastRegs = true → twf l = true) (hm : tkeys m = tkeys s.reg.merges) :
      Act p s { s with reg := { s.reg with headways := h, lastRegs := l, merges := m } }
  | arbiters (t : Table Arbiter) (hk : tkeys t = tkeys s.gate.arbiters) (hb : Balanced s.gate.arbiters → Balanced t) :
      Act p s { s with gate := { s.gate with arbiters := t } }
  | sections (t : Table SectRec) (hk : tkeys t = tkeys s.trc.sections) (ho : OwedOk s.trc.sections → OwedOk t) :
      Act p s { s with trc := { s.trc with sections := t } }
  | zones (t : Table ZoneRec) (hk : tkeys t = tkeys s.trc.zones) : Act p s { s with trc := { s.trc with zones := t } }
  | incidents (m : Inm) (h : InmKept s.inm m) (hq : p.loud = true ∨ SameSigns s.inm m) : Act p s { s with inm := m }
  | channels (t : Table StationChannel) (h : ChannelsKept s.anc.channels t) : Act p s { s with anc := { s.anc with channels := t } }
  | announced (l : List Announced) : Act p s { s with anc := { s.anc with announced := l } }

/-- Sequences of acts. -/
abbrev Acts (p : Perm) : State → State → Prop := ReflTransGen (Act p)

/-- No act loud. -/
def Perm.quiet (p : Perm) : Perm := { p with loud := false }

/-- Every act may be loud. -/
def Perm.anyLoud (p : Perm) : Perm := { p with loud := true }

/-- Sequences that end with the categories and LINE STOP following the table: no loud act, or loud acts, the refresh of R150 and R151, and
then no loud act. -/
def Settles (p : Perm) (s t : State) : Prop :=
  Acts p.quiet s t ∨ ∃ u, Acts p.anyLoud s u ∧ Acts p.quiet (refreshIncidents u) t

variable {p : Perm} {s t u : State}

theorem Act.mono {p q : Perm} (hl : p.loud = true → q.loud = true) (hm : p.moving = true → q.moving = true) (h : Act p s t) :
    Act q s t := by
  cases h with
  | category c on => exact .category c on
  | order o h => exact .order o h
  | store st h => exact .store st h
  | trains t hk h => exact .trains t hk (h.imp_left hm)
  | occupancy t hk h => exact .occupancy t hk (hm h)
  | regulator h l m a b c => exact .regulator h l m a b c
  | arbiters t a b => exact .arbiters t a b
  | sections t a b => exact .sections t a b
  | zones t a => exact .zones t a
  | incidents m h hq => exact .incidents m h (hq.imp_left hl)
  | channels t h => exact .channels t h
  | announced l => exact .announced l

theorem Acts.mono {p q : Perm} (hl : p.loud = true → q.loud = true) (hm : p.moving = true → q.moving = true) (h : Acts p s t) :
    Acts q s t := by
  induction h with
  | refl => exact .refl
  | tail _ h ih => exact ih.tail (h.mono hl hm)

theorem Acts.loud (h : Acts p s t) : Acts p.anyLoud s t := Acts.mono (p := p) (q := p.anyLoud) (fun _ => rfl) (fun k => k) h

theorem Acts.of_quiet (h : Acts p.quiet s t) : Acts p s t :=
  Acts.mono (p := p.quiet) (fun k => absurd k (by simp [Perm.quiet])) (fun k => k) h

theorem Acts.quiet_loud (h : Acts p.quiet s t) : Acts p.anyLoud s t := h.of_quiet.loud

theorem Act.acts (h : Act p s t) : Acts p s t := .single h

/-- Sequences put together, the last one first. -/
theorem Acts.after (k : Acts p t u) (h : Acts p s t) : Acts p s u := h.trans k

/-! ## The frame of acts -/

theorem setCategory_link (c : Category) (on : Bool) (s : State) :
    ∃ f, (setCategory c on s).link = { s.link with slot := f } := by
  unfold setCategory setPending
  split
  · exact ⟨_, rfl⟩
  · split <;> exact ⟨_, rfl⟩

theorem setCategory_autoClear (c : Category) (on : Bool) (s : State) : (setCategory c on s).atu.autoClear = s.atu.autoClear := by
  unfold setCategory setPending
  split
  · rfl
  · split <;> rfl

open Sys2Proof.Safety in
theorem Settled.refl (s : State) : Settled s s := by
  constructor <;> first | rfl | exact ⟨[], s.link.slot, by simp⟩

open Sys2Proof.Safety in
theorem Settled.trans {s t u : State} (h : Settled s t) (k : Settled t u) : Settled s u := by
  obtain ⟨q, f, e⟩ := h.link
  obtain ⟨q', f', e'⟩ := k.link
  refine ⟨k.powered.trans h.powered, k.resetPin.trans h.resetPin, k.tripPins.trans h.tripPins, k.rxd.trans h.rxd, k.clock.trans h.clock,
    k.lds.trans h.lds, k.drt.trans h.drt, k.pending.trans h.pending, k.scrubDue.trans h.scrubDue, k.liftDue.trans h.liftDue, k.freeCount.trans h.freeCount,
    k.autoClear.trans h.autoClear, k.wear.trans h.wear, k.grace.trans h.grace, k.params.trans h.params,
    k.platformHolds.trans h.platformHolds, k.kinds.trans h.kinds, k.templates.trans h.templates, k.plans.trans h.plans,
    k.approach.trans h.approach, k.scheduled.trans h.scheduled, q ++ q', f', ?_⟩
  rw [e', e]
  simp

open Sys2Proof.Safety in
theorem Act.settled (h : Act p s t) : Settled s t := by
  cases h with
  | category c on =>
    obtain ⟨f, e⟩ := setCategory_link c on s
    constructor <;> first | simp; done | exact setCategory_autoClear c on s | exact ⟨[], f, by simpa using e⟩
  | store st h => constructor <;> first | rfl | exact ⟨[], s.link.slot, by simp⟩ | exact h.wear
  | incidents m h hq => constructor <;> first | rfl | exact ⟨[], s.link.slot, by simp⟩ | exact h.kinds
  | order o ho => constructor <;> first | rfl | exact ⟨[o], _, rfl⟩
  | _ => constructor <;> first | rfl | exact ⟨[], s.link.slot, by simp⟩

open Sys2Proof.Safety in
/-- Acts leave supply, pins, clock, line description, rights, settings and queue of commands as they were. -/
theorem Acts.settled (h : Acts p s t) : Settled s t := by
  induction h with
  | refl => exact Settled.refl _
  | tail _ h ih => exact Settled.trans ih h.settled

/-- A property that every act keeps is kept by sequences of acts. -/
theorem Acts.keeps {P : State → Prop} (hP : ∀ a b, Act p a b → P a → P b) (h : Acts p s t) (hs : P s) : P t := by
  induction h with
  | refl => exact hs
  | tail _ h ih => exact hP _ _ h ih

/-! ## Sequences that settle -/

theorem acts_refreshIncidents (hl : p.loud = true) : Acts p s (refreshIncidents s) := by
  unfold refreshIncidents
  refine ReflTransGen.head (.incidents _ ?_ (.inl hl)) (.head (.category _ _) (.head (.category _ _) (.single (.category _ _))))
  exact ⟨rfl, rfl, id, id, id⟩

theorem Settles.acts (h : Settles p s t) : Acts p.anyLoud s t := by
  rcases h with h | ⟨u, h, k⟩
  · exact h.quiet_loud
  · exact (h.trans (acts_refreshIncidents rfl)).trans k.quiet_loud

theorem Settles.of_quiet (h : Acts p.quiet s t) : Settles p s t := .inl h

theorem Settles.refl : Settles p s s := .inl .refl

theorem Settles.refresh (h : Acts p.anyLoud s t) : Settles p s (refreshIncidents t) := .inr ⟨t, h, .refl⟩

theorem Settles.trans (h : Settles p s t) (k : Settles p t u) : Settles p s u := by
  rcases k with k | ⟨v, k, l⟩
  · rcases h with h | ⟨w, h, m⟩
    · exact .inl (h.trans k)
    · exact .inr ⟨w, h, m.trans k⟩
  · exact .inr ⟨v, h.acts.trans k, l⟩

/-- Settling sequences put together, the last one first. -/
theorem Settles.after (k : Settles p t u) (h : Settles p s t) : Settles p s u := h.trans k

/-- Quiet acts after a settling sequence. -/
theorem Settles.after_acts (k : Acts p.quiet t u) (h : Settles p s t) : Settles p s u := h.trans (.inl k)

/-- Loud acts and a refresh, after whatever came before. -/
theorem Settles.then_refresh (h : Settles p s t) (k : Acts p.anyLoud t u) : Settles p s (refreshIncidents u) :=
  .inr ⟨u, h.acts.trans k, .refl⟩

theorem Settles.mono {q : Perm} (hm : p.moving = true → q.moving = true) (h : Settles p s t) : Settles q s t := by
  rcases h with h | ⟨u, h, k⟩
  · exact .inl (Acts.mono (p := p.quiet) (q := q.quiet) (fun k => k) hm h)
  · exact .inr ⟨u, Acts.mono (p := p.anyLoud) (q := q.anyLoud) (fun k => k) hm h,
      Acts.mono (p := p.quiet) (q := q.quiet) (fun k => k) hm k⟩

open Sys2Proof.Safety in
theorem Settles.settled (h : Settles p s t) : Settled s t := h.acts.settled

/-- A fold of operations each of which acts. -/
theorem acts_foldl {α : Type} {f : State → α → State} (hf : ∀ s a, Acts p s (f s a)) (l : List α) (s : State) :
    Acts p s (l.foldl f s) := by
  induction l generalizing s with
  | nil => exact .refl
  | cons a l ih => exact (hf s a).trans (ih _)

theorem settles_foldl {α : Type} {f : State → α → State} (hf : ∀ s a, Settles p s (f s a)) (l : List α) (s : State) :
    Settles p s (l.foldl f s) := by
  induction l generalizing s with
  | nil => exact .refl
  | cons a l ih => exact (hf s a).trans (ih _)

/-! ## Attention and orders -/

theorem acts_setCategory (c : Category) (on : Bool) : Acts p s (setCategory c on s) := .single (.category c on)

theorem acts_report (c : Category) : Acts p s (report c s) := .single (.category c true)

theorem acts_queueOrder (o : Order) : Acts p s (queueOrder o s) := by
  unfold queueOrder
  split
  · next h => exact .single (.order o h)
  · exact acts_report _

end Sys2Proof.Machine
end

