-- ==== Sys2Proof/Laws/AnnounceActs.lean ====
section
/-! SUPPORT. The Announcement Controller's shared operations as sequences of acts, with the bound of each station queue. -/

namespace Sys2Proof.Machine

open Relation (ReflTransGen)

variable {p : Perm} {s : State}

theorem thas_iff {α : Type} {t : Table α} {n : Nat} : thas t n = true ↔ ∃ a, tget t n = some a := Option.isSome_iff_exists

theorem queue_of_tget {t : Table StationChannel} {st : Nat} {c : StationChannel} (h : tget t st = some c) (hq : QueuesOk t) :
    c.queue.length ≤ 8 := hq _ (mem_of_tget h)

/-- A channel that exists is replaced by one whose queue is no longer than 8. -/
theorem channelsKept_tput {t : Table StationChannel} {st : Nat} {c d : StationChannel} (h : tget t st = some c)
    (hq : c.queue.length ≤ 8 → d.queue.length ≤ 8) : ChannelsKept t (tput t st d) where
  has n := by
    unfold thas
    rw [tget_tput]
    split
    · next e => rw [e, h]; rfl
    · rfl
  canonical hw := twf_tput hw _ _
  queues hk q hm := by
    rcases mem_tput hm with rfl | hm
    · exact hq (queue_of_tget h hk)
    · exact hk _ hm

theorem acts_setChannel {st : Nat} {c d : StationChannel} (h : tget s.anc.channels st = some c)
    (hq : c.queue.length ≤ 8 → d.queue.length ≤ 8) : Acts p s (setChannel st d s) :=
  .single (.channels _ (channelsKept_tput h hq))

theorem channelsKept_tmap {t : Table StationChannel} {f : Nat → StationChannel → StationChannel}
    (hf : ∀ n c, (f n c).queue.length ≤ c.queue.length) : ChannelsKept t (tmap t f) where
  has n := by simp [thas, tget_tmap]
  canonical hw := twf_of_keys (tkeys_tmap ..) hw
  queues hk q hm := by
    obtain ⟨r, hr, rfl⟩ := mem_tmap hm
    exact le_trans (hf _ _) (hk _ hr)

theorem channelsKept_tmod {t : Table StationChannel} {n : Nat} {f : StationChannel → StationChannel}
    (hf : ∀ c, (f c).queue.length ≤ c.queue.length) : ChannelsKept t (tmod t n f) where
  has m := by simp [thas, tget_tmod]
  canonical hw := twf_of_keys (tkeys_tmod ..) hw
  queues hk q hm := by
    obtain ⟨r, hr, -, e | ⟨-, e⟩⟩ := mem_tmod hm
    · rw [e]; exact hk _ hr
    · rw [e]; exact le_trans (hf _) (hk _ hr)

@[simp] theorem setChannel_channels (st : Nat) (c : StationChannel) (s : State) :
    (setChannel st c s).anc.channels = tput s.anc.channels st c := rfl

@[simp] theorem length_enqueue (e : QueueEntry) (q : List QueueEntry) : (enqueue e q).length = q.length + 1 := length_insertBy ..

/-! ## Starting -/

theorem startLoop_length (now : Count) (tp : Table TemplateFields) (st fuel : Nat) (c : StationChannel) :
    (startLoop now tp st fuel c).1.queue.length ≤ c.queue.length := by
  induction fuel generalizing c with
  | zero => exact le_refl _
  | succ fuel ih =>
    unfold startLoop
    split
    · exact le_refl _
    · next e he =>
      have hd : (c.queue.erase e).length ≤ c.queue.length := List.length_erase_le
      dsimp only
      split
      · exact le_trans (ih _) hd
      · exact hd

/-- A start attempt with an eligible entry takes at least one entry out of the queue. -/
theorem startLoop_takes {now : Count} {tp : Table TemplateFields} {st fuel : Nat} {c : StationChannel}
    (h : ∃ e ∈ c.queue, e.eligible now = true) : (startLoop now tp st (fuel + 1) c).1.queue.length + 1 ≤ c.queue.length := by
  unfold startLoop
  split
  · next hn => obtain ⟨e, he, k⟩ := h; exact absurd k (by simpa using List.find?_eq_none.1 hn e he)
  · next e he =>
    have hm : e ∈ c.queue := List.mem_of_find?_eq_some he
    have hd : (c.queue.erase e).length + 1 = c.queue.length := by
      rw [List.length_erase_of_mem hm]
      have := List.length_pos_of_mem hm
      omega
    dsimp only
    split
    · have := startLoop_length now tp st fuel { c with queue := c.queue.erase e }
      dsimp only at this
      omega
    · exact le_of_eq hd

theorem acts_startAttempt (st : Nat) : Acts p s (startAttempt st s) := by
  unfold startAttempt
  split
  · exact .refl
  · next c hc =>
    split
    · exact .refl
    · have hk : ∀ k, Acts p s (setChannel st (startLoop s.now s.anc.templates st k c).1 s) := fun k =>
        acts_setChannel hc (fun h => le_trans (startLoop_length ..) h)
      dsimp only
      split
      · exact hk _
      · exact (hk _).trans (acts_queueOrder _)

/-! ## Pre-emption -/

theorem setPending_setChannel (l : List Category) (st : Nat) (d : StationChannel) (s : State) :
    setPending l (setChannel st d s) = setChannel st d (setPending l s) := by
  by_cases h : l.head? = s.atu.announced
  · rw [setPending, if_pos (show l.head? = (setChannel st d s).atu.announced from h), setPending, if_pos h]; rfl
  · rw [setPending, if_neg (show ¬ l.head? = (setChannel st d s).atu.announced from h), setPending, if_neg h]; rfl

theorem setCategory_setChannel (c : Category) (on : Bool) (st : Nat) (d : StationChannel) (s : State) :
    setCategory c on (setChannel st d s) = setChannel st d (setCategory c on s) := by
  by_cases h : s.atu.pending.contains c = on
  · rw [setCategory, if_pos (show (setChannel st d s).atu.pending.contains c = on from h), setCategory, if_pos h]
  · rw [setCategory, if_neg (show ¬ (setChannel st d s).atu.pending.contains c = on from h), setCategory, if_neg h]
    exact setPending_setChannel ..

theorem queueOrder_setChannel (o : Order) (st : Nat) (d : StationChannel) (s : State) :
    queueOrder o (setChannel st d s) = setChannel st d (queueOrder o s) := by
  by_cases h : s.link.outbound.length < Config.maxOutbound
  · rw [queueOrder, if_pos (show (setChannel st d s).link.outbound.length < _ from h), queueOrder, if_pos h]; rfl
  · rw [queueOrder, if_neg (show ¬ (setChannel st d s).link.outbound.length < _ from h), queueOrder, if_neg h]
    exact setCategory_setChannel ..

theorem tput_tput {α : Type} (t : Table α) (k : Nat) (v w : α) : tput (tput t k v) k w = tput t k w := by
  induction t with
  | nil => simp [tput]
  | cons q t ih =>
    rw [tput, tput]
    by_cases h1 : k < q.1
    · simp [h1, tput]
    · by_cases h2 : k = q.1
      · simp [h2, tput]
      · simp [h1, h2, tput, ih]

theorem setChannel_setChannel (st : Nat) (c d : StationChannel) (s : State) :
    setChannel st d (setChannel st c s) = setChannel st d s := by
  simp [setChannel, tput_tput]

@[simp] theorem queueOrder_now (o : Order) (s : State) : (queueOrder o s).now = s.now := by simp [State.now]

@[simp] theorem setChannel_now (st : Nat) (c : StationChannel) (s : State) : (setChannel st c s).now = s.now := rfl

/-- What a start attempt is on a channel known to be silent. -/
theorem startAttempt_setChannel (st : Nat) (c : StationChannel) (s : State) (h : c.playing = none) :
    startAttempt st (setChannel st c s) =
      (match (startLoop s.now s.anc.templates st c.queue.length c).2 with
        | none => id
        | some o => queueOrder o)
      (setChannel st (startLoop s.now s.anc.templates st c.queue.length c).1 s) := by
  unfold startAttempt
  simp only [setChannel_channels, tget_tput_self, h, Option.isSome_none, Bool.false_eq_true, if_false, setChannel_now]
  have e : (setChannel st c s).anc.templates = s.anc.templates := rfl
  rw [e]
  cases (startLoop s.now s.anc.templates st c.queue.length c).2 <;> simp [setChannel_setChannel]

theorem acts_preempt (st : Nat) : Acts p s (preempt st s) := by
  unfold preempt
  split
  · exact .refl
  · next c hc =>
    split
    · exact .refl
    · next pl hp =>
      split
      · exact .refl
      · dsimp only
        generalize hq : c.queue.filter (fun e => !(e.urgent s.now && !thas s.anc.templates e.template)) = q
        have hql : q.length ≤ c.queue.length := hq ▸ List.length_filter_le ..
        split
        · next hu =>
          obtain ⟨e, hem, heu⟩ := List.any_eq_true.1 hu
          have hel : e.eligible s.now = true := by
            unfold QueueEntry.urgent at heu
            simp at heu; exact heu.2
          have hpos : q.length - 1 + 1 = q.length := by have := List.length_pos_of_mem hem; omega
          rw [startAttempt_setChannel _ _ _ rfl]
          simp only [queueOrder_now, queueOrder_anc]
          generalize hr : startLoop s.now s.anc.templates st q.length { c with playing := none, queue := q } = r
          have hlen : r.1.queue.length + 1 ≤ q.length := by
            rw [← hr, ← hpos]
            have := startLoop_takes (now := s.now) (tp := s.anc.templates) (st := st) (fuel := q.length - 1)
              (c := { c with playing := none, queue := q }) ⟨e, hem, hel⟩
            dsimp only at this
            omega
          have hw : ∀ (d : StationChannel) (os : State), os.anc = s.anc → Acts p s os → d.queue.length ≤ c.queue.length →
              Acts p s (putBack st pl (setChannel st r.1 os)) := by
            intro d os ha hos _
            unfold putBack
            simp only [setChannel_channels, tget_tput_self]
            have hc' : tget os.anc.channels st = some c := ha ▸ hc
            split
            · rw [setChannel_setChannel]
              exact hos.trans (acts_setChannel hc' (fun h => by simp; omega))
            · exact hos.trans (acts_setChannel hc' (fun h => by omega))
          cases r.2 with
          | none => exact hw c _ (by simp) (acts_queueOrder _) (le_refl _)
          | some o =>
            dsimp only
            rw [queueOrder_setChannel]
            exact hw c _ (by simp) ((acts_queueOrder _).trans (acts_queueOrder _)) (le_refl _)
        · exact acts_setChannel hc (fun h => le_trans hql h)

theorem acts_becameReady (st : Nat) (e : QueueEntry) : Acts p s (becameReady st e s) := by
  unfold becameReady
  split
  · exact .refl
  · split
    · exact acts_startAttempt st
    · split
      · exact acts_preempt st
      · exact .refl

/-! ## Joining -/

theorem joinChannel_queue (now : Count) (e : QueueEntry) (c : StationChannel) (h : c.queue.length ≤ 8) :
    (joinChannel now e c).1.queue.length ≤ 8 := by
  unfold joinChannel
  split
  · exact h
  · split
    · next k => simp [Config.maxQueue] at *; omega
    · split
      · split
        · simp; omega
        · exact h
      · exact h

theorem acts_joinQueue (st : Nat) (e : QueueEntry) : Acts p s (joinQueue st e s).1 := by
  unfold joinQueue
  split
  · exact .refl
  · next c hc =>
    have hs : Acts p s (setChannel st (joinChannel s.now e c).1 s) := acts_setChannel hc (joinChannel_queue s.now e c)
    dsimp only
    split
    · exact hs.trans (acts_becameReady ..)
    · exact hs.trans (acts_becameReady ..)
    · exact .refl

theorem acts_joinAll (e : QueueEntry) (l : List Nat) : Acts p s (joinAll e l s) :=
  acts_foldl (f := fun s st => (joinQueue st e s).1) (fun _ _ => acts_joinQueue ..) l s

theorem acts_completePlay (st : Nat) : Acts p s (completePlay st s) := by
  unfold completePlay
  split
  · exact .refl
  · next c hc =>
    split
    · exact .refl
    · have hs : Acts p s (setChannel st { c with playing := none } s) := acts_setChannel hc id
      dsimp only
      split
      · exact hs.trans (acts_startAttempt _)
      · exact (hs.trans (acts_joinQueue ..)).trans (acts_startAttempt _)

/-! ## Incidents and approaches -/

theorem acts_tellNewIncident (n : Nat) (i : Incident) : Acts p s (tellNewIncident n i s) := by
  unfold tellNewIncident
  split
  · exact .refl
  · split
    · exact .refl
    · dsimp only
      split
      · exact .refl
      · exact (acts_joinAll ..).tail (.announced _)

theorem acts_tellRemoval (n : Nat) : Acts p s (tellRemoval n s) := by
  unfold tellRemoval
  split
  · exact .refl
  · have h1 : Acts p s { s with anc := { s.anc with
        channels := tmap s.anc.channels (fun _ c => dropIncident n c)
        announced := s.anc.announced.filter (fun a => a.incident ≠ n) } } :=
      ReflTransGen.tail (b := { s with anc := { s.anc with channels := tmap s.anc.channels (fun _ c => dropIncident n c) } })
        (.single (.channels _ (channelsKept_tmap (fun _ c => List.length_filter_le ..)))) (.announced _)
    dsimp only
    split
    · exact h1
    · split
      · exact h1
      · exact h1.trans (acts_joinAll ..)

theorem acts_dropApproach (n : Nat) : Acts p s (dropApproach n s) :=
  .single (.channels _ (channelsKept_tmap (fun _ _ => List.length_filter_le ..)))

theorem acts_cutAll : Acts p s (cutAll s) := by
  unfold cutAll
  refine acts_foldl (f := fun s (q : Nat × StationChannel) => if q.2.playing.isSome then queueOrder (.cut q.1) s else s) ?_ _ _
  intro s q
  split
  · exact acts_queueOrder _
  · exact .refl

/-- A fired entry: the joins of its entry, then its own record (R171). -/
theorem fireScheduled_cases (hh mm ss d i : Nat) (s : State) :
    ∃ u v, Acts p s u ∧ fireScheduled hh mm ss d i s = { u with anc := { u.anc with scheduled := v } } := by
  unfold fireScheduled
  split
  · exact ⟨s, s.anc.scheduled, .refl, rfl⟩
  · split
    · exact ⟨_, _, acts_joinAll _ _, rfl⟩
    · exact ⟨s, s.anc.scheduled, .refl, rfl⟩

end Sys2Proof.Machine
end

