-- ==== Sys2Proof/Laws/BlockActs.lean ====
section
/-! SUPPORT. The shared operations of the Incident Manager, the store, the Regulator, the gate, the Traction Controller and the Train Table
as sequences of acts: quiet ones (`acts_…`), ones that raise and so settle (`settles_…`), and the loud parts of a raise. -/

namespace Sys2Proof.Machine

open Relation (ReflTransGen)
open Sys2Proof.Safety (OneEntryEach)

variable {p : Perm} {s : State}

/-! ## The incident table -/

/-- Changing entries without their sources and locations. -/
theorem oneEntryEach_map {t : Table Incident} {f : Nat × Incident → Nat × Incident}
    (hf : ∀ q, (f q).2.source = q.2.source ∧ (f q).2.loc = q.2.loc) (h : OneEntryEach t) : OneEntryEach (t.map f) :=
  List.pairwise_map.2 (h.imp (fun {a b} hab => by rw [(hf a).1, (hf a).2, (hf b).1, (hf b).2]; exact hab))

theorem oneEntryEach_tmod {t : Table Incident} (n : Nat) {f : Incident → Incident}
    (hf : ∀ i, (f i).source = i.source ∧ (f i).loc = i.loc) (h : OneEntryEach t) : OneEntryEach (tmod t n f) :=
  oneEntryEach_map (fun q => by split <;> [exact hf _; exact ⟨rfl, rfl⟩]) h

theorem oneEntryEach_tmap {t : Table Incident} {f : Nat → Incident → Incident}
    (hf : ∀ n i, (f n i).source = i.source ∧ (f n i).loc = i.loc) (h : OneEntryEach t) : OneEntryEach (tmap t f) :=
  oneEntryEach_map (fun _ => hf _ _) h

theorem oneEntryEach_tdel {t : Table Incident} (n : Nat) (h : OneEntryEach t) : OneEntryEach (tdel t n) := h.filter _

/-- An entry is added whose source and location no other has. -/
theorem oneEntryEach_tput {t : Table Incident} (n : Nat) {i : Incident} (hi : ∀ q ∈ t, ¬ (q.2.source = i.source ∧ q.2.loc = i.loc))
    (h : OneEntryEach t) : OneEntryEach (tput t n i) := by
  have new : ∀ q ∈ t, ¬ (i.source = q.2.source ∧ i.loc = q.2.loc) := fun q hq e => hi q hq ⟨e.1.symm, e.2.symm⟩
  induction t with
  | nil => exact List.pairwise_singleton ..
  | cons q t ih =>
    have hp := List.pairwise_cons.1 h
    unfold tput
    split
    · exact List.pairwise_cons.2 ⟨new, h⟩
    · split
      · exact List.pairwise_cons.2 ⟨fun r hr => new r (List.mem_cons_of_mem _ hr), hp.2⟩
      · refine List.pairwise_cons.2 ⟨fun r hr => ?_, ih (fun r hr => hi r (List.mem_cons_of_mem _ hr)) hp.2
          (fun r hr => new r (List.mem_cons_of_mem _ hr))⟩
        rcases mem_tput hr with rfl | hr
        · exact hi q List.mem_cons_self
        · exact hp.1 r hr

/-- Where no entry with a source and location is found, none has them. -/
theorem findIncident_none {t : Table Incident} {src : Source} {loc : IncidentLoc} (h : findIncident t src loc = none) :
    ∀ q ∈ t, ¬ (q.2.source = src ∧ q.2.loc = loc) := by
  simpa [findIncident] using h

theorem inmKept_raiseTable (now : Count) (r : Raise) (m : Inm) : InmKept m (raiseTable now r m).1 := by
  unfold raiseTable
  split
  · exact ⟨rfl, rfl, fun h => by simpa using h, fun h => twf_of_keys (tkeys_tmod ..) h, oneEntryEach_tmod _ (fun _ => ⟨rfl, rfl⟩)⟩
  · next hf =>
    split
    · next h =>
      refine ⟨rfl, rfl, fun _ => ?_, fun hw => twf_tput hw _ _, oneEntryEach_tput _ (findIncident_none hf)⟩
      have := length_tput_le m.incidents (freeNumber m.incidents (Config.maxIncidents + 1) m.nextNumber) (newIncident now r)
      simp [Config.maxIncidents] at *
      omega
    · exact ⟨rfl, rfl, id, id, id⟩

/-- A loud change of the Incident Manager. -/
theorem acts_inm {m : Inm} (hl : p.loud = true) (h : InmKept s.inm m) : Acts p s { s with inm := m } := .single (.incidents m h (.inl hl))

theorem InmKept.refl (m : Inm) : InmKept m m := ⟨rfl, rfl, id, id, id⟩

theorem InmKept.trans {a b c : Inm} (h : InmKept a b) (k : InmKept b c) : InmKept a c :=
  ⟨k.kinds.trans h.kinds, k.effective.trans h.effective, fun x => k.room (h.room x), fun x => k.canonical (h.canonical x),
    fun x => k.each (h.each x)⟩

theorem acts_tellOutcome (o : RaiseOutcome) : Acts p s (tellOutcome o s) := by
  unfold tellOutcome
  split
  · split
    · exact acts_tellNewIncident ..
    · exact .refl
  · exact .refl

theorem acts_raiseTold (hl : p.loud = true) (r : Raise) : Acts p s (raiseTold r s).1 := by
  have hk := inmKept_raiseTable s.now r s.inm
  unfold raiseTold
  dsimp only
  split
  · exact acts_inm hl ⟨hk.kinds, hk.effective, hk.room, hk.canonical, hk.each⟩
  · exact (acts_inm hl hk).trans (acts_tellOutcome _)

theorem settles_raiseIntegrity (n : Nat) : Settles p s (raiseIntegrity n s) := .refresh (acts_raiseTold rfl _)

/-! ## The store -/

theorem storeKept_trips {st : Store} {l : List Trip} (h : l.map Trip.key = st.trips.map Trip.key) : StoreKept st { st with trips := l } :=
  ⟨rfl, id, h⟩

theorem acts_mapTrips {f : Trip → Trip} (hf : ∀ t, (f t).key = t.key) : Acts p s (mapTrips f s) := by
  refine .single (.store _ (storeKept_trips ?_))
  rw [List.map_map]
  exact List.map_congr_left (fun t _ => hf t)

theorem acts_modTrip {n : Nat} {f : Trip → Trip} (hf : ∀ t, (f t).key = t.key) : Acts p s (modTrip n f s) :=
  acts_mapTrips (fun t => by split <;> simp [hf])

/-- Changing entries without touching any Sd keeps a trip's place. -/
theorem key_entries {t : Trip} {l : List Entry} (h : l.map (fun e => e.coded.sd) = t.entries.map (fun e => e.coded.sd)) :
    Trip.key { t with entries := l } = t.key := by
  have hl : l.length = t.entries.length := by simpa using congrArg List.length h
  unfold Trip.key Trip.firstSd
  cases l with
  | nil => cases ht : t.entries with
    | nil => simp
    | cons => simp [ht] at hl
  | cons a l => cases ht : t.entries with
    | nil => simp [ht] at hl
    | cons b k => simp [ht] at h; simp [ht] at hl; simp [h.1, hl]

theorem key_mapEntries {t : Trip} {f : Entry → Entry} (hf : ∀ e, (f e).coded.sd = e.coded.sd) :
    Trip.key { t with entries := t.entries.map f } = t.key :=
  key_entries (by rw [List.map_map]; exact List.map_congr_left (fun e _ => hf e))

theorem key_mapIdxEntries {t : Trip} {f : Nat → Entry → Entry} (hf : ∀ i e, (f i e).coded.sd = e.coded.sd) :
    Trip.key { t with entries := t.entries.mapIdx f } = t.key := by
  apply key_entries
  apply List.ext_getElem?
  intro i
  simp only [List.getElem?_map, List.getElem?_mapIdx]
  cases t.entries[i]? <;> simp [hf]

theorem key_lmodEntries {t : Trip} {i : Nat} {f : Entry → Entry} (hf : ∀ e, (f e).coded.sd = e.coded.sd) :
    Trip.key { t with entries := lmod t.entries i f } = t.key := by
  apply key_entries
  apply List.ext_getElem?
  intro j
  simp only [lmod, List.getElem?_map, List.getElem?_modify]
  cases t.entries[j]? with
  | none => simp
  | some e => simp; split <;> simp [hf]

theorem acts_modEntry {n i : Nat} {f : Entry → Entry} (hf : ∀ e, (f e).coded.sd = e.coded.sd) : Acts p s (modEntry n i f s) :=
  acts_modTrip (fun _ => key_lmodEntries hf)

theorem acts_noteCorrection : Acts p s (noteCorrection s) := by
  have h : Acts p s { s with store := { s.store with corrected := satSucc 255 s.store.corrected } } :=
    .single (.store _ ⟨rfl, fun h => satSucc_le h, rfl⟩)
  unfold noteCorrection
  dsimp only
  split
  · exact h.trans (acts_report _)
  · exact h

theorem settles_foundDouble (n i q : Nat) : Settles p s (foundDouble n i q s) := by
  unfold foundDouble
  refine (Settles.of_quiet (ReflTransGen.trans (acts_modEntry ?_) (acts_modTrip ?_))).trans (settles_raiseIntegrity n)
  · intro e; rfl
  · intro t; rfl

theorem settles_readEntry (n i : Nat) : Settles p s (readEntry n i s).1 := by
  unfold readEntry
  split
  · exact .refl
  · split
    · exact .refl
    · refine .of_quiet (ReflTransGen.trans (acts_modEntry ?_) acts_noteCorrection)
      intro e; rfl
    · exact settles_foundDouble ..
    · exact .refl

theorem settles_readUntilStop (n q fuel i : Nat) (s : State) : Settles p s (readUntilStop n q fuel i s).1 := by
  induction fuel generalizing i s with
  | zero => exact .refl
  | succ fuel ih =>
    have hr := settles_readEntry (p := p) (s := s) n i
    unfold readUntilStop
    split
    · next s1 h => rw [h] at hr; exact hr
    · next s1 v h =>
      rw [h] at hr
      split
      · exact hr
      · exact hr.trans (ih _ _)

theorem settles_findStopFrom (n q i : Nat) : Settles p s (findStopFrom n q i s).1 := settles_readUntilStop ..

theorem acts_startRun (n train i : Nat) : Acts p s (startRun n train i s) :=
  acts_modTrip (fun t => by
    split
    · exact key_mapIdxEntries (t := { t with run := .running, train := some train }) (fun j e => by split <;> rfl)
    · rfl)

theorem acts_callEntry (n i : Nat) : Acts p s (callEntry n i s) := acts_modEntry (fun _ => rfl)

theorem acts_skipEntries (n i j : Nat) : Acts p s (skipEntries n i j s) :=
  acts_modTrip (fun t => key_mapIdxEntries (fun k e => by split <;> rfl))

theorem key_resetDay (t : Trip) : t.resetDay.key = t.key :=
  key_mapEntries (t := { t with run := .planned, rolled := false }) (fun _ => rfl)

theorem key_finish (how : RunState) (t : Trip) : (t.finish how).key = t.key := by
  unfold Trip.finish
  split
  · dsimp only
    split
    · exact key_resetDay _
    · rfl
  · rfl

theorem acts_endRun (n : Nat) (how : RunState) : Acts p s (endRun n how s) := acts_modTrip (key_finish how)

theorem acts_dailyReset : Acts p s (dailyReset s) :=
  acts_mapTrips (fun t => by split; · rfl
                             · exact key_resetDay t)

theorem settles_scrubOnce : Settles p s (scrubOnce s) := by
  unfold scrubOnce
  split
  · exact .refl
  · exact (settles_readEntry _ _).trans (.of_quiet (.single (.store _ ⟨rfl, id, rfl⟩)))

theorem acts_applyFlips (l : List StoreFlip) : Acts p s (applyFlips l s) :=
  acts_foldl (f := fun s f => modEntry f.trip f.index (disturb f.kind) s) (fun _ _ => acts_modEntry (fun _ => rfl)) l s

/-! ## Train records and the Regulator -/

theorem whereabouts_tmod {t : Table Train} {n : Nat} {f : Train → Train} (hf : ∀ a, (f a).loc = a.loc) :
    whereabouts (tmod t n f) = whereabouts t := by
  unfold whereabouts tmod
  rw [List.map_map]
  exact List.map_congr_left (fun q _ => by by_cases h : q.1 = n <;> simp [h, hf])

theorem whereabouts_tmap {t : Table Train} {f : Nat → Train → Train} (hf : ∀ n a, (f n a).loc = a.loc) :
    whereabouts (tmap t f) = whereabouts t := by
  unfold whereabouts tmap
  rw [List.map_map]
  exact List.map_congr_left (fun q _ => by simp [hf])

theorem acts_modTrain {n : Nat} {f : Train → Train} (hf : ∀ t, (f t).loc = t.loc) : Acts p s (modTrain n f s) :=
  .single (.trains _ (tkeys_tmod ..) (.inr (whereabouts_tmod hf)))

theorem acts_moveTrain {n : Nat} {f : Train → Train} (hm : p.moving = true) : Acts p s (modTrain n f s) :=
  .single (.trains _ (tkeys_tmod ..) (.inl hm))

theorem acts_unschedule (n : Nat) : Acts p s (unschedule n s) := acts_modTrain (fun _ => rfl)

theorem acts_joinTrip (n m i : Nat) : Acts p s (joinTrip n m i s) :=
  Acts.after (acts_modTrain (fun _ => rfl)) (Acts.after (acts_callEntry ..) (acts_startRun ..))

theorem settles_readBounds (t : Train) (q : Stop) : Settles p s (readBounds t q s).1 := by
  unfold readBounds
  split
  · exact .refl
  · exact settles_readEntry ..

theorem settles_regulateArrival (n q : Nat) : Settles p s (regulateArrival n q s).1 := by
  unfold regulateArrival
  split
  · next t stop ht hs =>
    have hb := settles_readBounds (p := p) (s := s) t stop
    dsimp only
    generalize readBounds t stop s = b at hb ⊢
    refine hb.trans (.of_quiet (ReflTransGen.tail (acts_modTrain ?_) (.regulator _ _ _ id (fun h => twf_tput h _ _) rfl)))
    intro t; rfl
  · exact .refl

theorem settles_recomputeProfile (n : Nat) : Settles p s (recomputeProfile n s) := by
  unfold recomputeProfile
  split
  · exact .refl
  · split
    · exact .refl
    · exact (settles_readBounds _ _).trans (.of_quiet (acts_modTrain (fun _ => rfl)))

theorem acts_predictAssigned (n : Nat) : Acts p s (predictAssigned n s) := acts_modTrain (fun _ => rfl)

theorem acts_restrictBegan (x : Nat) : Acts p s (restrictBegan x s) :=
  .single (.trains _ (tkeys_tmap ..) (.inr (whereabouts_tmap (fun _ t => by split <;> rfl))))

theorem settles_restrictEnded (x : Nat) : Settles p s (restrictEnded x s) :=
  settles_foldl (f := fun s (q : Nat × Train) => recomputeProfile q.1 s) (fun _ _ => settles_recomputeProfile _) _ _

theorem acts_writeHeadway (n q : Nat) (d : Count) (sd : Option Nat) : Acts p s (writeHeadway n q d sd s) :=
  .single (.regulator _ _ _ (fun h => twf_tput h _ _) id rfl)

theorem acts_clearSprev : Acts p s (clearSprev s) :=
  .single (.regulator _ _ _ (fun h => twf_of_keys (tkeys_tmap ..) h) id rfl)

theorem acts_commitMerge (c : Option (Nat × Commit)) : Acts p s (commitMerge c s) := by
  cases c with
  | none => exact .refl
  | some c => exact .single (.regulator _ _ _ id id (tkeys_tmod ..))

/-! ## The gate -/

theorem acts_writeCauses (n : Nat) (l : List Cause) : Acts p s (writeCauses n l s) := acts_modTrain (fun _ => rfl)

theorem unitsOf_filter (l : List Grant) (f : Grant → Bool) : unitsOf (l.filter f) + unitsOf (l.filter (fun g => !f g)) = unitsOf l := by
  induction l with
  | nil => rfl
  | cons g l ih =>
    unfold unitsOf at *
    cases h : f g <;> simp [h] <;> omega

/-- Ending grants keeps the units in use in balance (R98). -/
theorem drop_balanced {f : Grant → Bool} {a : Arbiter} (h : a.inUse = unitsOf a.grants) :
    (a.drop f).inUse = unitsOf (a.drop f).grants := by
  have := unitsOf_filter a.grants f
  unfold Arbiter.drop
  simp only
  omega

/-- Giving a grant keeps the units in use in balance (R98). -/
theorem add_balanced {g : Grant} {a : Arbiter} (h : a.inUse = unitsOf a.grants) : (a.add g).inUse = unitsOf (a.add g).grants := by
  unfold Arbiter.add unitsOf at *
  simp [h]

theorem acts_modArbiter {z : Nat} {f : Arbiter → Arbiter} (hf : ∀ a, a.inUse = unitsOf a.grants → (f a).inUse = unitsOf (f a).grants) :
    Acts p s (modArbiter z f s) := by
  refine .single (.arbiters _ (tkeys_tmod ..) ?_)
  intro h q hq
  obtain ⟨r, hr, -, e | ⟨-, e⟩⟩ := mem_tmod hq
  · rw [e]; exact h _ hr
  · rw [e]; exact hf _ (h _ hr)

theorem acts_tmapArbiters {f : Nat → Arbiter → Arbiter} (hf : ∀ n a, a.inUse = unitsOf a.grants → (f n a).inUse = unitsOf (f n a).grants) :
    Acts p s { s with gate := { s.gate with arbiters := tmap s.gate.arbiters f } } := by
  refine .single (.arbiters _ (tkeys_tmap ..) ?_)
  intro h q hq
  obtain ⟨r, hr, rfl⟩ := mem_tmap hq
  exact hf _ _ (h _ hr)

theorem acts_returnGrant (z n : Nat) (e : Count) : Acts p s (returnGrant z n e s) :=
  Acts.after (acts_modTrain (fun _ => rfl)) (acts_modArbiter (fun _ h => drop_balanced h))

theorem acts_release (z : Nat) (r : Request) (c : Option (Nat × Commit)) (t : Train) : Acts p s (release z r c t s) :=
  Acts.after (acts_queueOrder _) (Acts.after (acts_modArbiter (fun _ h => h)) (Acts.after (acts_modTrain (fun _ => rfl))
    (acts_commitMerge c)))

theorem acts_giveGrant (z : Nat) (r : Request) : Acts p s (giveGrant z r s).1 := by
  unfold giveGrant
  have h := (acts_modArbiter (p := p) (s := s) (z := z) (f := Arbiter.add
    { train := r.train, stop := r.stop, units := r.units, givenAt := s.now, startedAt := none,
      expiry := later s.now (releaseTimeoutOf s z) }) (fun _ h => add_balanced h)).trans
    (acts_modTrain (n := r.train) (f := fun t => { t with causes := withoutCause .awaitGrant t.causes }) (fun _ => rfl))
  dsimp only
  split
  · exact h
  · split
    · exact h.trans (acts_release ..)
    · exact h.trans (acts_returnGrant ..)

theorem acts_selectLoop (z fuel : Nat) (s : State) : Acts p s (selectLoop z fuel s).1 := by
  induction fuel generalizing s with
  | zero => exact .refl
  | succ fuel ih =>
    unfold selectLoop
    split
    · exact .refl
    · split
      · exact .refl
      · exact Acts.after (ih _) (Acts.after (acts_giveGrant ..) (acts_modArbiter (fun _ h => h)))

theorem acts_select (z : Nat) : Acts p s (select z s).1 := by
  unfold select
  split
  · exact .refl
  · exact acts_selectLoop ..

theorem acts_withdrawRequest (n : Nat) : Acts p s (withdrawRequest n s) :=
  Acts.after (acts_modTrain (fun _ => rfl)) (acts_tmapArbiters (fun _ _ h => h))

theorem acts_requestRule (n : Nat) (sel : Bool) : Acts p s (requestRule n sel s).1 := by
  unfold requestRule
  split
  · exact .refl
  · split
    · exact acts_modTrain (fun _ => rfl)
    · split
      · dsimp only
        split
        · exact Acts.after (acts_select _) (Acts.after (acts_modArbiter (fun _ h => h)) (acts_writeCauses ..))
        · exact Acts.after (acts_modArbiter (fun _ h => h)) (acts_writeCauses ..)
      · exact acts_writeCauses ..

theorem acts_takeRelease (n : Nat) (l : List Cause) (t : Train) : Acts p s (takeRelease n l t s).1 := by
  unfold takeRelease
  split
  · exact acts_writeCauses ..
  · exact Acts.after (acts_select _) (Acts.after (acts_modTrain (fun _ => rfl)) (acts_modArbiter (fun _ h => drop_balanced h)))

theorem acts_withdrawRelease (n : Nat) (l : List Cause) (t : Train) : Acts p s (withdrawRelease n l t s).1 := by
  unfold withdrawRelease
  split
  · exact (acts_queueOrder _).trans (acts_takeRelease ..)
  · exact acts_takeRelease ..

theorem acts_evaluate (n : Nat) (sel : Bool) : Acts p s (evaluate n sel s).1 := by
  unfold evaluate
  split
  · exact .refl
  · split
    · exact .refl
    · dsimp only
      split
      · split
        · exact .refl
        · exact acts_withdrawRelease ..
      · split
        · exact Acts.after (acts_requestRule ..) (acts_modTrain (fun _ => rfl))
        · split
          · exact Acts.after (acts_writeCauses ..) (acts_withdrawRequest _)
          · exact acts_writeCauses ..

theorem acts_evaluateEach (l : List Nat) (s : State) : Acts p s (evaluateEach l s).1 := by
  induction l generalizing s with
  | nil => exact .refl
  | cons n l ih => exact Acts.after (ih _) (acts_evaluate n true)

theorem acts_evaluateToward (x : Nat) : Acts p s (evaluateToward x s).1 := acts_evaluateEach ..

theorem acts_evaluateAt (q : Nat) : Acts p s (evaluateAt q s).1 := acts_evaluateEach ..

theorem acts_gateArrive (n : Nat) : Acts p s (gateArrive n s).1 := Acts.after (acts_evaluate ..) (acts_modTrain (fun _ => rfl))

theorem acts_gateGone (n : Nat) : Acts p s (gateGone n s) := Acts.after (acts_modTrain (fun _ => rfl)) (acts_withdrawRequest n)

theorem acts_endStarted (z n : Nat) : Acts p s (endStarted z n s).1 :=
  Acts.after (acts_select _) (Acts.after (acts_modTrain (fun _ => rfl)) (acts_modArbiter (fun _ h => drop_balanced h)))

theorem acts_selectEach (l : List Nat) (s : State) : Acts p s (selectEach l s).1 := by
  induction l generalizing s with
  | nil => exact .refl
  | cons z l ih => exact Acts.after (ih _) (acts_select z)

theorem acts_endStartedEach (n : Nat) (l : List Nat) (s : State) : Acts p s (endStartedEach n l s).1 := by
  induction l generalizing s with
  | nil => exact .refl
  | cons z l ih => exact Acts.after (ih _) (acts_endStarted z n)

theorem acts_startGrant (z n : Nat) (d : Count) : Acts p s (startGrant z n d s) :=
  acts_modArbiter (fun a h => by
    rw [show unitsOf (a.grants.map _) = unitsOf a.grants from ?_]
    · exact h
    · unfold unitsOf
      rw [List.map_map]
      exact congrArg List.sum (List.map_congr_left (fun g _ => by simp only [Function.comp]; split <;> rfl)))

theorem acts_gateDepart (n : Nat) (d : Count) : Acts p s (gateDepart n d s).1 := by
  unfold gateDepart
  split
  · exact .refl
  · exact Acts.after (acts_modTrain (fun _ => rfl)) (Acts.after (acts_startGrant ..) (acts_endStartedEach ..))

theorem acts_gateLeave (n : Nat) : Acts p s (gateLeave n s).1 :=
  Acts.after (acts_selectEach ..) (Acts.after (acts_modTrain (fun _ => rfl))
    (Acts.after (acts_tmapArbiters (fun _ _ h => drop_balanced h)) (acts_gateGone n)))

theorem acts_giveCapacity (z c : Nat) : Acts p s (giveCapacity z c s).1 := by
  unfold giveCapacity
  split
  · exact .refl
  · dsimp only
    split
    · exact Acts.after (acts_select _) (acts_modArbiter (fun _ h => h))
    · exact acts_modArbiter (fun _ h => h)

/-! ## The Traction Controller -/

theorem acts_modRec {x : Nat} {f : SectRec → SectRec} (hf : ∀ r, r.owed ≤ 8 → (f r).owed ≤ 8) : Acts p s (modRec x f s) := by
  refine .single (.sections _ (tkeys_tmod ..) ?_)
  intro h q hq
  obtain ⟨r, hr, -, e | ⟨-, e⟩⟩ := mem_tmod hq
  · rw [e]; exact h _ hr
  · rw [e]; exact hf _ (h _ hr)

theorem acts_tmapSections {f : Nat → SectRec → SectRec} (hf : ∀ n r, r.owed ≤ 8 → (f n r).owed ≤ 8) :
    Acts p s { s with trc := { s.trc with sections := tmap s.trc.sections f } } := by
  refine .single (.sections _ (tkeys_tmap ..) ?_)
  intro h q hq
  obtain ⟨r, hr, rfl⟩ := mem_tmap hq
  exact hf _ _ (h _ hr)

theorem acts_provingTest (x : Nat) : Acts p s (provingTest x s) := by
  unfold provingTest
  split
  · split
    · exact Acts.after (acts_evaluateToward x) (Acts.after (acts_modRec (fun _ h => h)) (acts_queueOrder _))
    · exact .refl
  · exact .refl

theorem acts_tested {q : State × List Nat} (h : Acts p s q.1) : Acts p s (tested q) :=
  h.trans (acts_foldl (f := fun s x => provingTest x s) (fun _ _ => acts_provingTest _) _ _)

theorem acts_sectionChanged (x : Nat) : Acts p s (sectionChanged x s) := acts_tested (acts_evaluateToward x)

theorem acts_startIsolation (x : Nat) : Acts p s (startIsolation x s) := by
  unfold startIsolation
  split
  · exact .refl
  · exact Acts.after (acts_sectionChanged x) (Acts.after (acts_modRec (fun _ h => h)) (acts_queueOrder _))

theorem acts_startEnergise (x : Nat) : Acts p s (startEnergise x s) := by
  unfold startEnergise
  split
  · exact .refl
  · exact Acts.after (acts_sectionChanged x) (Acts.after (acts_modRec (fun _ h => h)) (acts_queueOrder _))

theorem acts_occupancyNotice (x : Nat) : Acts p s (occupancyNotice x s) := by
  unfold occupancyNotice
  split
  · exact .refl
  · split
    · exact .refl
    · split
      · exact Acts.after (acts_provingTest x) (acts_startIsolation x)
      · exact acts_provingTest x

theorem acts_addOccupant (hm : p.moving = true) (x : Nat) : Acts p s (addOccupant x s) := .single (.occupancy _ (tkeys_tmod ..) hm)

theorem acts_takeOccupant (hm : p.moving = true) (x : Nat) : Acts p s (takeOccupant x s) := .single (.occupancy _ (tkeys_tmod ..) hm)

/-- The counts of a move, before the notices. -/
def moveCounts (a b : Option Nat) (s : State) : State :=
  match b with
  | some y => addOccupant y (match a with | some x => takeOccupant x s | none => s)
  | none => match a with | some x => takeOccupant x s | none => s

theorem acts_moveCounts (hm : p.moving = true) (a b : Option Nat) : Acts p s (moveCounts a b s) := by
  unfold moveCounts
  cases b <;> cases a <;> dsimp only
  · exact .refl
  · exact acts_takeOccupant hm _
  · exact acts_addOccupant hm _
  · exact (acts_takeOccupant hm _).trans (acts_addOccupant hm _)

/-- A move is its counts and then acts that move nothing. -/
theorem moveOccupant_cases (a b : Option Nat) (s : State) :
    (a = b ∧ moveOccupant a b s = s) ∨ (a ≠ b ∧ Acts p (moveCounts a b s) (moveOccupant a b s)) := by
  unfold moveOccupant
  split
  · next h => exact .inl ⟨h, rfl⟩
  · next h =>
    refine .inr ⟨h, ?_⟩
    unfold moveCounts
    cases b <;> cases a <;> dsimp only
    · exact .refl
    · exact acts_occupancyNotice _
    · exact acts_occupancyNotice _
    · exact (acts_occupancyNotice _).trans (acts_occupancyNotice _)

theorem acts_moveOccupant (hm : p.moving = true) (a b : Option Nat) : Acts p s (moveOccupant a b s) := by
  rcases moveOccupant_cases (p := p) a b s with ⟨-, h⟩ | ⟨-, h⟩
  · rw [h]
  · exact (acts_moveCounts hm a b).trans h

theorem acts_rederiveCapacity (z : Nat) : Acts p s (rederiveCapacity z s) := by
  unfold rederiveCapacity
  split
  · exact acts_tested (Acts.after (acts_giveCapacity ..) (.single (.zones _ (tkeys_tmod ..))))
  · exact .refl

end Sys2Proof.Machine
end

