-- ==== Sys2Proof/Laws/EffectActs.lean ====
section
/-! SUPPORT. What incidents do and what train reports do, as sequences of acts that settle; moving a train needs leave to move. -/

namespace Sys2Proof.Machine

open Relation (ReflTransGen)

variable {p : Perm} {s : State}

/-! ## Quiet changes of the Incident Manager -/

theorem SameSigns.of_parts {a b : Inm} (h1 : b.lineStop = a.lineStop) (h2 : b.tableFull = a.tableFull)
    (h3 : b.incidents.map (fun e => (e.2.state, e.2.severity)) = a.incidents.map (fun e => (e.2.state, e.2.severity)))
    (h4 : looseInputs b = looseInputs a) : SameSigns a b := by
  have hany : ∀ f : IncidentState × Severity → Bool,
      b.incidents.any (fun e => f (e.2.state, e.2.severity)) = a.incidents.any (fun e => f (e.2.state, e.2.severity)) := by
    intro f
    have := congrArg (fun l => l.any f) h3
    simpa [List.any_map, Function.comp_def] using this
  refine ⟨h1, h2, fun v => ?_, ?_⟩
  · unfold unacknowledged
    rw [h4, hany (fun e => e.1 = .active && e.2 = v)]
  · unfold severityInForce Incident.inForce
    rw [h4, hany (fun e => e.1 ≠ .lifted && e.2 = .emergency)]

theorem acts_quietInm {m : Inm} (h : InmKept s.inm m) (hq : SameSigns s.inm m) : Acts p s { s with inm := m } :=
  .single (.incidents m h (.inr hq))

theorem acts_effective {t : Table Action} (h : tkeys t = tkeys s.inm.effective) :
    Acts p s { s with inm := { s.inm with effective := t } } :=
  acts_quietInm ⟨rfl, h, id, id, id⟩ (.of_parts rfl rfl rfl rfl)

theorem acts_modChannel (c : Nat) (f : Channel → Channel) : Acts p s (modChannel c f s) :=
  acts_quietInm ⟨rfl, rfl, id, id, id⟩ (.of_parts rfl rfl rfl rfl)

theorem acts_endCondition (src : Source) (loc : IncidentLoc) : Acts p s (endCondition src loc s) := by
  refine acts_quietInm ⟨rfl, rfl, fun h => by simpa using h, fun h => by dsimp only; exact twf_tmap h _,
    fun h => by dsimp only; exact oneEntryEach_tmap (fun _ _ => by split <;> exact ⟨rfl, rfl⟩) h⟩ (.of_parts rfl rfl ?_ rfl)
  unfold tmap
  rw [List.map_map]
  exact List.map_congr_left (fun e _ => by simp only [Function.comp]; split <;> rfl)

/-- Changing a trip input without its in-force indication, captured settings and entry. -/
theorem looseInputs_vmod {m : Inm} {n : Nat} {f : TripInput → TripInput}
    (hf : ∀ t, (f t).inForce = t.inForce ∧ (f t).captured = t.captured ∧ (f t).entry = t.entry) :
    looseInputs { m with inputs := vmod m.inputs n f } = looseInputs m := by
  unfold looseInputs vmod
  rw [show (m.inputs.mapIdx (fun j a => if j = n then f a else a)).toList
      = m.inputs.toList.mapIdx (fun j a => if j = n then f a else a) from by simp [Vector.toList_mapIdx]]
  generalize m.inputs.toList = l
  have : ∀ (l : List TripInput) (k : Nat), (l.mapIdx (fun j a => if j + k = n then f a else a)).filterMap
      (fun t => if t.inForce && t.entry.isNone then t.captured else none)
      = l.filterMap (fun t => if t.inForce && t.entry.isNone then t.captured else none) := by
    intro l
    induction l with
    | nil => intro k; rfl
    | cons a l ih =>
      intro k
      have ih' := ih (k + 1)
      rw [List.mapIdx_cons, List.filterMap_cons, List.filterMap_cons]
      simp only [Nat.zero_add]
      have e : (if (if k = n then f a else a).inForce && (if k = n then f a else a).entry.isNone
          then (if k = n then f a else a).captured else none)
          = (if a.inForce && a.entry.isNone then a.captured else none) := by
        split
        · rw [(hf a).1, (hf a).2.1, (hf a).2.2]
        · rfl
      rw [e, show (fun i a => if i + 1 + k = n then f a else a) = (fun i a => if i + (k + 1) = n then f a else a) from by
        funext i a; rw [Nat.add_assoc, Nat.add_comm 1 k], ih']
  simpa using this l 0

theorem acts_modInput_quiet {n : Nat} {f : TripInput → TripInput}
    (hf : ∀ t, (f t).inForce = t.inForce ∧ (f t).captured = t.captured ∧ (f t).entry = t.entry) : Acts p s (modInput n f s) :=
  acts_quietInm ⟨rfl, rfl, id, id, id⟩ (.of_parts rfl rfl rfl (looseInputs_vmod hf))

theorem acts_modInput (hl : p.loud = true) (n : Nat) (f : TripInput → TripInput) : Acts p s (modInput n f s) :=
  acts_inm hl ⟨rfl, rfl, id, id, id⟩

/-! ## Effective actions -/

theorem acts_deEnergise (x : Nat) : Acts p s (deEnergise x s) := by
  unfold deEnergise
  split
  · exact .refl
  · split
    all_goals first | exact acts_startIsolation x | exact acts_modRec (fun _ h => h) | exact .refl

theorem settles_restrictChanged (x : Nat) (a b : Action) : Settles p s (restrictChanged x a b s) := by
  unfold restrictChanged
  split
  · exact .of_quiet (acts_restrictBegan x)
  · split
    · exact settles_restrictEnded x
    · exact .refl

theorem settles_tellEffect (s : State) (c : Nat × Action × Action) : Settles p s (tellEffect s c) := by
  unfold tellEffect
  refine Settles.trans (.of_quiet (Acts.after (acts_tested (acts_evaluateToward _)) ?_)) (settles_restrictChanged _ _ _)
  split
  · exact acts_deEnergise _
  · exact .refl

theorem settles_recomputeEffects (l : List Nat) : Settles p s (recomputeEffects l s) :=
  Settles.trans (.of_quiet (acts_effective (tkeys_tmap ..))) (settles_foldl settles_tellEffect _ _)

/-! ## Raises -/

theorem settles_raiseIncident (r : Raise) : Settles p s (raiseIncident r s).1 :=
  .refresh (Acts.after (Settles.acts (settles_recomputeEffects _)) (acts_raiseTold rfl r))

theorem settles_raiseInternal (k : SourceKind) (loc : IncidentLoc) (v : Severity) (a : Action) (l : List Nat) (m : Mode) (c : Bool) :
    Settles p s (raiseInternal k loc v a l m c s) := settles_raiseIncident _

theorem settles_raiseSectionFault (x : Nat) : Settles p s (raiseSectionFault x s) := settles_raiseIncident _

theorem settles_raiseProvingLow (x : Nat) : Settles p s (raiseProvingLow x s) := settles_raiseIncident _

theorem settles_raiseProvingTimeout (x : Nat) : Settles p s (raiseProvingTimeout x s) := settles_raiseIncident _

theorem settles_raiseFeedLost (z : Nat) : Settles p s (raiseFeedLost z s) := settles_raiseIncident _

theorem settles_raiseUnreleased (q : Nat) : Settles p s (raiseUnreleased q s) := settles_raiseIncident _

theorem settles_qualify (n : Nat) : Settles p s (qualify n s) := by
  unfold qualify
  split
  · exact .refl
  · exact .refresh (Acts.after (Settles.acts (settles_recomputeEffects _))
      (Acts.after (acts_modInput rfl _ _) (Acts.after (acts_raiseTold rfl _) (acts_modInput rfl _ _))))

theorem settles_inputActive (n : Nat) : Settles p s (inputActive n s) := by
  unfold inputActive
  split
  · exact .refl
  · split
    · exact .refl
    · split
      · exact settles_qualify n
      · exact .of_quiet (acts_modInput_quiet (fun _ => ⟨rfl, rfl, rfl⟩))

theorem acts_inputInactive (n : Nat) : Acts p s (inputInactive n s) := by
  unfold inputInactive
  split
  · exact .refl
  · have h : Acts p s (modInput n (fun t => { t with qual := .idle, qualCycles := 0 }) s) :=
      acts_modInput_quiet (fun _ => ⟨rfl, rfl, rfl⟩)
    dsimp only
    split
    · exact h.trans (acts_endCondition ..)
    · exact h

theorem acts_noteChannelRaise (c : Nat) (o : RaiseOutcome) : Acts p s (noteChannelRaise c o s) := by
  unfold noteChannelRaise
  split
  · exact acts_modChannel ..
  · exact .refl

theorem settles_countDetection (c q : Nat) : Settles p s (countDetection c q s).1 := by
  unfold countDetection
  have h : Settles p s (modChannel c (fun ch => { ch with lastStop := some q, count := min ch.period (ch.count + 1) }) s) :=
    .of_quiet (acts_modChannel ..)
  dsimp only
  split
  · exact h
  · split
    · exact (h.trans (settles_raiseIncident _)).trans (.of_quiet (acts_noteChannelRaise ..))
    · exact h

/-! ## Lifting and removal -/

theorem acts_raiseSilent (hl : p.loud = true) (r : Raise) : Acts p s (raiseSilent r s).1 := acts_inm hl (inmKept_raiseTable ..)

theorem acts_giveEntry (hl : p.loud = true) (q : State × List Nat) (n : Nat) : Acts p q.1 (giveEntry q n).1 := by
  unfold giveEntry
  split
  · exact .refl
  · split
    · exact .refl
    · split
      · exact Acts.after (acts_modInput hl _ _) (acts_raiseSilent hl _)
      · exact .refl

theorem acts_reRaise (hl : p.loud = true) (q : State × List Nat) (c : Nat) : Acts p q.1 (reRaise q c).1 := by
  unfold reRaise
  split
  · exact .refl
  · split
    · exact .refl
    · split
      · dsimp only
        split
        · exact Acts.after (acts_modChannel ..) (acts_raiseSilent hl _)
        · exact acts_raiseSilent hl _
      · exact .refl

/-- A fold over a state and what it collects. -/
theorem acts_foldlPair {α β : Type} {f : State × β → α → State × β} (hf : ∀ q a, Acts p q.1 (f q a).1) (l : List α) (q : State × β) :
    Acts p q.1 (l.foldl f q).1 := by
  induction l generalizing q with
  | nil => exact .refl
  | cons a l ih => exact (hf q a).trans (ih _)

theorem settles_foldlPair {α β : Type} {f : State × β → α → State × β} (hf : ∀ q a, Settles p q.1 (f q a).1) (l : List α)
    (q : State × β) : Settles p q.1 (l.foldl f q).1 := by
  induction l generalizing q with
  | nil => exact .refl
  | cons a l ih => exact (hf q a).trans (ih _)

theorem acts_dropEntry (hl : p.loud = true) (n : Nat) (i : Incident) : Acts p s (dropEntry n i s) := by
  have h : Acts p s { s with inm := { s.inm with
      incidents := tdel s.inm.incidents n
      channels := s.inm.channels.map (fun ch => if ch.openIncident = some n then { ch with openIncident := none } else ch) } } :=
    acts_inm hl ⟨rfl, rfl, fun h => le_trans (length_tdel_le ..) h, fun h => twf_tdel h _, oneEntryEach_tdel _⟩
  unfold dropEntry
  dsimp only
  split
  · exact h.trans (acts_modInput hl _ _)
  · exact h

theorem acts_tellNewEach (l : List Nat) : Acts p s (tellNewEach l s) :=
  acts_foldl (f := fun s n => tellOutcome (.new n) s) (fun _ _ => acts_tellOutcome _) l s

theorem settles_removeIncident (n : Nat) : Settles p s (removeIncident n s) := by
  unfold removeIncident
  split
  · exact .refl
  · next i hi =>
    refine .refresh (Acts.after (Settles.acts (settles_recomputeEffects _)) (Acts.after (acts_tellNewEach _)
      (Acts.after (acts_tellRemoval _) (Acts.after (acts_foldlPair (acts_reRaise rfl) _ _)
      (Acts.after (acts_foldlPair (acts_giveEntry rfl) _ _) (acts_dropEntry rfl _ _))))))

theorem acts_liftEntry (hl : p.loud = true) (n : Nat) (i : Incident) : Acts p s (liftEntry n i s) := by
  have h : Acts p s { s with inm := { s.inm with incidents := tmod s.inm.incidents n (fun i => { i with state := .lifted }) } } :=
    acts_inm hl ⟨rfl, rfl, fun h => by simpa using h, fun h => by dsimp only; exact twf_tmod h _ _,
      fun h => by dsimp only; exact oneEntryEach_tmod _ (fun _ => ⟨rfl, rfl⟩) h⟩
  unfold liftEntry
  dsimp only
  split
  · exact h.trans (acts_modInput hl _ _)
  · exact h

theorem settles_liftIncident (n : Nat) : Settles p s (liftIncident n s) := by
  unfold liftIncident
  split
  · exact .refl
  · split
    · exact .refresh (Acts.after (Settles.acts (settles_recomputeEffects _)) (acts_liftEntry rfl _ _))
    · exact settles_removeIncident n
    · exact .refl

theorem settles_perCycleLift : Settles p s (perCycleLift s) := by
  unfold perCycleLift
  refine .refresh (Acts.after (Settles.acts (settles_recomputeEffects _))
    (Acts.after (Settles.acts (settles_foldl (f := fun s (q : Nat × Incident) => removeIncident q.1 s) (fun _ _ => settles_removeIncident _) _ _))
    (Acts.after (acts_foldl (f := fun s (q : Nat × Incident) => liftEntry q.1 q.2 s) (fun _ _ => acts_liftEntry rfl _ _) _ _) ?_)))
  exact acts_inm rfl ⟨rfl, rfl, id, id, id⟩

/-! ## Trains -/

theorem settles_considerTrip (q : Nat) (c : State × Option (Int × Nat)) (n : Nat) : Settles p c.1 (considerTrip q c n).1 := by
  have h := settles_readEntry (p := p) (s := c.1) n 0
  unfold considerTrip
  dsimp only
  split
  · exact h
  · split
    · exact h
    · split <;> exact h

theorem settles_pickTrip (q : Nat) : Settles p s (pickTrip q s).1 := by
  unfold pickTrip
  split
  · exact settles_foldlPair (settles_considerTrip q) _ (s, none)
  · exact .refl

theorem settles_matchArrival (n q : Nat) : Settles p s (matchArrival n q s).1 := by
  unfold matchArrival
  split
  · exact .refl
  · next r _ =>
    have h := settles_findStopFrom (p := p) (s := s) r.trip q (r.index + 1)
    dsimp only
    split
    · exact h.trans (.of_quiet (Acts.after (acts_unschedule _) (acts_endRun _ _)))
    · exact h.trans (.of_quiet (Acts.after (acts_modTrain (fun _ => rfl)) (Acts.after (acts_callEntry ..) (acts_skipEntries ..))))

theorem settles_nextTripAt (m q : Nat) : Settles p s (nextTripAt m q s).1 := by
  unfold nextTripAt
  split
  · exact .refl
  · split
    · exact .refl
    · split
      · exact settles_findStopFrom ..
      · exact .refl

theorem settles_lastStop (n q : Nat) : Settles p s (lastStop n q s).1 := by
  unfold lastStop
  split
  · exact .refl
  · split
    · exact .refl
    · next r _ _ =>
      have h : Settles p s (nextTripAt r.trip q (endRun r.trip .done s)).1 :=
        Settles.trans (.of_quiet (acts_endRun ..)) (settles_nextTripAt ..)
      dsimp only
      split
      · exact h.trans (.of_quiet (acts_unschedule _))
      · exact h.trans (.of_quiet (acts_joinTrip ..))

theorem settles_routeOf (n q : Nat) : Settles p s (routeOf n q s).1 := by
  unfold routeOf
  split
  · exact .refl
  · next r _ =>
    split
    · have h : Settles p s (readEntry r.trip (r.index + 1) (readEntry r.trip r.index s).1).1 :=
        (settles_readEntry ..).trans (settles_readEntry ..)
      dsimp only
      split <;> exact h
    · exact .refl

theorem settles_setRoute (n q : Nat) : Settles p s (setRoute n q s) :=
  (settles_routeOf n q).trans (.of_quiet (acts_modTrain (fun _ => rfl)))

theorem acts_missedDeparture (n : Nat) : Acts p s (missedDeparture n s) := by
  unfold missedDeparture
  split
  · exact .refl
  · refine acts_tested (Acts.after (acts_modTrain (fun _ => rfl)) ?_)
    split
    · exact Acts.after (acts_takeRelease ..) (acts_gateGone _)
    · exact acts_gateGone _

/-- What follows an arrival once the train stands at its stop point and the counts are taken (R63). -/
def afterArrival (n q : Nat) (s : State) : State :=
  let s2 := modTrain n (fun t => { t with grant := none, predicted := none }) s
  let r3 := lastStop n q s2
  let r5 := regulateArrival n q (setRoute n q r3.1)
  let s6 := modTrain n (fun t => { t with state := .dwelling }) r5.1
  tested (gateArrive n (queueOrder (.dwell n q (((getTrain s6 n).map Train.dwell).getD 0)) s6))

theorem arrive_state (n q : Nat) (m : Moment) (s : State) : (arrive n q m s).1 =
    afterArrival n q (moveOccupant (trainSect s n) (stopSect s q)
      (modTrain n (fun t => { t with loc := .stop q, arrSvc := m.svc, arrCount := m.count }) s)) := by
  simp only [arrive, afterArrival]

theorem settles_afterArrival (n q : Nat) : Settles p s (afterArrival n q s) := by
  unfold afterArrival
  refine Settles.trans ?_ (.of_quiet (Acts.after (acts_tested (Acts.after (acts_gateArrive _) (acts_queueOrder _)))
    (acts_modTrain (fun _ => rfl))))
  exact (((Settles.of_quiet (acts_modTrain (f := fun t => { t with grant := none, predicted := none }) (fun _ => rfl))).trans
    (settles_lastStop ..)).trans (settles_setRoute ..)).trans (settles_regulateArrival ..)

theorem settles_arrive (hm : p.moving = true) (n q : Nat) (m : Moment) : Settles p s (arrive n q m s).1 := by
  rw [arrive_state]
  have hq : p.quiet.moving = true := hm
  exact Settles.trans (.of_quiet (Acts.after (acts_moveOccupant hq _ _) (acts_moveTrain hq))) (settles_afterArrival ..)

theorem acts_setRunning (hm : p.moving = true) (n : Nat) (t : Train) : Acts p s (setRunning n t s) :=
  Acts.after (acts_moveOccupant hm _ _) (acts_moveTrain hm)

theorem settles_readSd (t : Train) : Settles p s (readSd t s).1 := by
  unfold readSd
  split
  · exact .refl
  · exact settles_readEntry ..

theorem settles_destination (t : Train) (q : Nat) : Settles p s (destination t q s).1 := by
  unfold destination
  split
  · exact .refl
  · exact settles_readEntry ..

theorem settles_approachOf (n : Nat) (t : Train) (o : Option Prediction) : Settles p s (approachOf n t o s) := by
  unfold approachOf
  split
  · split
    · exact .refl
    · exact (settles_destination ..).trans (.of_quiet (acts_joinQueue ..))
  · exact .refl

theorem acts_endLateWindow (n : Nat) : Acts p s (endLateWindow n s) := by
  unfold endLateWindow
  split
  · exact .refl
  · split
    · exact acts_tested (acts_endStarted ..)
    · exact .refl

/-- What follows a released departure once the train runs on its next link (R66). -/
def afterDeparture (n q : Nat) (m : Moment) (t : Train) (s : State) : State :=
  endLateWindow n (approachOf n t (departPrediction (writeHeadway n q m.count (readSd t s).2 (readSd t s).1) t m)
    (modTrain n (fun u => { u with predicted := departPrediction (writeHeadway n q m.count (readSd t s).2 (readSd t s).1) t m })
      (writeHeadway n q m.count (readSd t s).2 (readSd t s).1)))

theorem departReleased_state (n q : Nat) (m : Moment) (t : Train) (s : State) :
    departReleased n q m t s = afterDeparture n q m t (setRunning n t (tested (gateDepart n m.count s))) := rfl

theorem settles_afterDeparture (n q : Nat) (m : Moment) (t : Train) : Settles p s (afterDeparture n q m t s) := by
  unfold afterDeparture
  refine Settles.trans ?_ (.of_quiet (acts_endLateWindow _))
  refine Settles.trans ?_ (settles_approachOf ..)
  exact (settles_readSd t).trans (.of_quiet (Acts.after (acts_modTrain (fun _ => rfl)) (acts_writeHeadway ..)))

theorem settles_departReleased (hm : p.moving = true) (n q : Nat) (m : Moment) (t : Train) : Settles p s (departReleased n q m t s) := by
  have hq : p.quiet.moving = true := hm
  rw [departReleased_state]
  exact Settles.trans (.of_quiet (Acts.after (acts_setRunning hq ..) (acts_tested (acts_gateDepart ..)))) (settles_afterDeparture ..)

theorem settles_departUnreleased (hm : p.moving = true) (n q : Nat) (t : Train) : Settles p s (departUnreleased n q t s) := by
  have hq : p.quiet.moving = true := hm
  unfold departUnreleased
  refine Settles.trans (.of_quiet ?_) (settles_raiseUnreleased q)
  exact Acts.after (acts_setRunning hq ..) (Acts.after (acts_modTrain (fun _ => rfl)) (acts_gateGone _))

/-- What TRAIN_LEAVE does before the record goes (R68). -/
def beforeRemoval (n : Nat) (t : Train) (s : State) : State :=
  let s1 := match t.state, t.atStop with
    | .released, some p => queueOrder (.departCancel n p) s
    | _, _ => s
  let q := gateLeave n s1
  let toward := if t.state = .released then (nextSect s t).toList else []
  let s2 := tested (modTrain n (fun t => { t with state := .running }) q.1, toward ++ q.2)
  dropApproach n (match t.trip with
    | some r => endRun r.trip .done s2
    | none => s2)

theorem leave_state (n : Nat) (t : Train) (s : State) : leave n t s = removeTrain n (beforeRemoval n t s) := by
  unfold leave beforeRemoval
  rfl

theorem acts_beforeRemoval (n : Nat) (t : Train) : Acts p s (beforeRemoval n t s) := by
  unfold beforeRemoval
  dsimp only
  refine Acts.after (acts_dropApproach n) ?_
  have h1 : Acts p s (match t.state, t.atStop with
    | .released, some p => queueOrder (.departCancel n p) s
    | _, _ => s) := by
    split
    · exact acts_queueOrder _
    · exact .refl
  split
  · exact Acts.after (acts_endRun ..) (acts_tested (Acts.after (acts_modTrain (fun _ => rfl)) (Acts.after (acts_gateLeave n) h1)))
  · exact acts_tested (Acts.after (acts_modTrain (fun _ => rfl)) (Acts.after (acts_gateLeave n) h1))

end Sys2Proof.Machine
end

