-- ==== Sys2Proof/Laws/CommandActs.lean ====
section
/-! SUPPORT. The dispatch of a request, said once, and the owners' parts and timer events that are sequences of acts. -/

namespace Sys2Proof.Machine

open Relation (ReflTransGen)
open Sys2Proof.Safety

variable {p : Perm} {s : State}

/-! ## Dispatch -/

/-- What a request can come to (R183, R184). -/
theorem request_cases (k : ReqKind) (h : Hdr) (need : Need) (owner : State → State × Reply) (s : State) :
    request k h need owner s = s ∨ request k h need owner s = discardFrame s ∨
      (s.link.outstanding.length < 4 ∧
        (request k h need owner s = putReply h.tag (refuse .format) (frameTaken s) ∨
          (∃ l a, request k h need owner s = putReply h.tag (refuseRights l a) (recordRefusal h.desk k l a (frameTaken s))) ∨
          request k h need owner s = putReply h.tag (owner (frameTaken s)).2 (owner (frameTaken s)).1)) := by
  unfold request
  split
  · exact .inl rfl
  · split
    · exact .inr (.inl rfl)
    · next ht =>
      refine .inr (.inr ⟨?_, ?_⟩)
      · unfold turnedAway at ht
        simp [Config.maxOutstanding] at ht
        exact Nat.lt_of_not_le (of_decide_eq_false ht.2)
      · split
        · exact .inl rfl
        · split
          · exact .inr (.inl ⟨_, _, rfl⟩)
          · exact .inr (.inr rfl)

/-- A request the link receives from a desk that lacks nothing is handed to its owner (R184). -/
theorem request_taken {k : ReqKind} {h : Hdr} {need : Need} {owner : State → State × Reply} {s : State} (hr : Received s h)
    (hl : lacking s h.desk need = none) :
    request k h need owner s = putReply h.tag (owner (frameTaken s)).2 (owner (frameTaken s)).1 := by
  obtain ⟨h1, h2, h3, h4, h5, h6⟩ := hr
  have ht : turnedAway s h = false :=
    Bool.or_eq_false_iff.2 ⟨decide_eq_false (by omega), decide_eq_false (by show ¬ 4 ≤ _; omega)⟩
  unfold request
  rw [if_neg (by simp [State.linkUp, State.live, h1, h2, h3]), if_neg (by rw [ht]; simp),
    if_neg (by simp [h6])]
  dsimp only
  rw [hl]

theorem levelOf_eq (s : State) (d a : Nat) : levelOf s d a = levelIn s.drt.inForce d a := rfl

theorem code_le_full (l : Level) : Level.code l ≤ Level.code .full := by cases l <;> decide

theorem holds_of_full {d a : Nat} (l : Level) (h : levelIn s.drt.inForce d a = .full) : holds s d l a = true := by
  unfold holds
  rw [levelOf_eq, h]
  exact decide_eq_true (code_le_full l)

theorem firstBelowFull_none {h : Hdr} (hw : LineWide s h) : firstBelowFull s h.desk = none := by
  unfold firstBelowFull
  rw [List.find?_eq_none]
  intro a ha
  simp [holds_of_full .full (hw a (List.mem_range.1 ha))]

theorem lacking_lineWide {h : Hdr} (hw : LineWide s h) : lacking s h.desk .lineWide = none := by
  simp [lacking, lackingAt, firstBelowFull_none hw]

theorem lackingAt_none {h : Hdr} {l : Level} {area : Option Nat} (hw : InArea s h l area) : lackingAt s h.desk l area = none := by
  rcases hw with ⟨a, rfl, ha⟩ | ⟨rfl, hw⟩
  · have : holds s h.desk l a = true := decide_eq_true ha
    simp [lackingAt, this]
  · simp [lackingAt, firstBelowFull_none hw]

theorem lacking_inArea {h : Hdr} {l : Level} {area : Option Nat} (hw : InArea s h l area) :
    lacking s h.desk (.inArea l area) = none := lackingAt_none hw

theorem lacking_somewhere {h : Hdr} {l : Level} (hw : Somewhere s h l) : lacking s h.desk (.anyArea l) = none := by
  obtain ⟨a, ha, hl⟩ := hw
  have : (List.range 16).any (holds s h.desk l) = true :=
    List.any_eq_true.2 ⟨a, List.mem_range.2 ha, decide_eq_true hl⟩
  show (if (List.range 16).any (holds s h.desk l) then none else some (l, none)) = none
  rw [if_pos this]

theorem putReply_frameTaken (h : Hdr) (r : Reply) (s : State) : putReply h.tag r (frameTaken s) = replied h r s := rfl

/-! ## Timers and owners of the gate, the Train Table and the Regulator -/

theorem acts_dwellEnds (n : Nat) : Acts p s (dwellEnds n s) :=
  acts_tested (Acts.after (acts_evaluate ..) (acts_modTrain (fun _ => rfl)))

theorem acts_mergeGapEnds (n : Nat) : Acts p s (mergeGapEnds n s) :=
  acts_tested (Acts.after (acts_evaluate ..) (acts_modTrain (fun _ => rfl)))

theorem acts_releaseEnds (n : Nat) (t : Train) : Acts p s (releaseEnds n t s) :=
  acts_tested (Acts.after (acts_evaluate ..) (acts_withdrawRelease ..))

theorem acts_setDeskHold (n : Nat) (on : Bool) : Acts p s (setDeskHold n on s) :=
  acts_tested (Acts.after (acts_evaluate ..) (acts_modTrain (fun _ => rfl)))

theorem acts_holdTrainOwner (n : Nat) : Acts p s (holdTrainOwner n s).1 := by
  unfold holdTrainOwner
  split
  · exact .refl
  · split
    · exact .refl
    · split
      · exact .refl
      · exact acts_setDeskHold ..

theorem acts_releaseTrainOwner (n : Nat) : Acts p s (releaseTrainOwner n s).1 := by
  unfold releaseTrainOwner
  split
  · exact .refl
  · split
    · exact .refl
    · split
      · exact .refl
      · exact acts_setDeskHold ..

theorem acts_newDwellExpiry (n : Nat) : Acts p s (newDwellExpiry n s) :=
  acts_tested (Acts.after (acts_evaluate ..) (acts_modTrain (fun _ => rfl)))

theorem settles_applyDwell (n q v : Nat) (t : Train) (st : Stop) : Settles p s (applyDwell n q v t st s).1 := by
  have hb := settles_readBounds (p := p) (s := s) t st
  unfold applyDwell
  generalize readBounds t st s = b at hb ⊢
  exact Settles.after_acts (Acts.after (acts_newDwellExpiry n) (acts_queueOrder _))
    (Settles.after (settles_recomputeProfile n) (Settles.after_acts (acts_modTrain (fun _ => rfl)) hb))

theorem settles_setDwellOwner (n v : Nat) : Settles p s (setDwellOwner n v s).1 := by
  unfold setDwellOwner
  repeat' split
  all_goals first | with_reducible exact .refl | exact settles_applyDwell ..

theorem settles_takeArrival (hm : p.moving = true) (b : Bool) (n q : Nat) (m : Moment) : Settles p s (takeArrival b n q m s).1 := by
  unfold takeArrival
  dsimp only
  exact Settles.after (settles_arrive hm ..) (settles_matchArrival ..)

theorem settles_arrivalOwner (hm : p.moving = true) (n q : Nat) (o : Option Nat) : Settles p s (arrivalOwner n q o s).1 := by
  unfold arrivalOwner
  repeat' split
  all_goals try dsimp only
  all_goals first
    | with_reducible exact .refl
    | with_reducible exact settles_takeArrival hm ..
    | exact Settles.after (settles_takeArrival hm ..) (.of_quiet (acts_missedDeparture _))

theorem settles_departureOwner (hm : p.moving = true) (n q : Nat) (o : Option Nat) : Settles p s (departureOwner n q o s).1 := by
  unfold departureOwner
  dsimp only
  repeat' split
  all_goals try dsimp only
  all_goals first
    | with_reducible exact .refl
    | with_reducible exact settles_departReleased hm ..
    | with_reducible exact settles_departUnreleased hm ..

theorem settles_assign (n m i q : Nat) (o : Option Nat) : Settles p s (assign n m i q o s).1 := by
  unfold assign
  have h : Settles p s (predictAssigned n (setRoute n q (joinTrip n m i s))) :=
    ((Settles.of_quiet (acts_joinTrip ..)).trans (settles_setRoute ..)).trans (.of_quiet (acts_predictAssigned _))
  dsimp only
  split
  · exact h
  · exact h.trans (.of_quiet (acts_tested (Acts.after (acts_evaluate ..) (acts_withdrawRequest _))))

theorem settles_assignOwner (n m : Nat) : Settles p s (assignOwner n m s).1 := by
  unfold assignOwner
  dsimp only
  repeat' split
  all_goals try dsimp only
  all_goals first
    | with_reducible exact .refl
    | with_reducible exact settles_findStopFrom ..
    | exact Settles.after (settles_assign ..) (settles_findStopFrom ..)

theorem acts_cancelTripOwner (n : Nat) : Acts p s (cancelTripOwner n s).1 := by
  unfold cancelTripOwner
  repeat' split
  all_goals first
    | exact .refl
    | exact acts_modTrip (fun _ => rfl)
    | exact Acts.after (acts_unschedule _) (acts_endRun ..)
    | exact acts_endRun ..

theorem settles_readAll (n : Nat) : Settles p s (readAll n s) :=
  settles_foldl (f := fun s i => (readEntry n i s).1) (fun _ _ => settles_readEntry ..) _ s

theorem settles_readTrip (l : List Item) (n : Nat) : Settles p s (readTrip l n s).1 := by
  unfold readTrip
  dsimp only
  split <;> exact settles_readAll n

theorem settles_readTripByNumberOwner (n : Nat) : Settles p s (readTripByNumberOwner n s).1 := by
  unfold readTripByNumberOwner
  split
  · exact settles_readTrip ..
  · exact .refl

theorem settles_readTripNextOwner (n : Nat) : Settles p s (readTripNextOwner n s).1 := by
  unfold readTripNextOwner
  repeat' split
  all_goals first | with_reducible exact .refl | exact settles_readTrip ..

/-! ## The Traction Controller's timers and owners -/

theorem settles_energiseFails (x : Nat) : Settles p s (energiseFails x s) := by
  unfold energiseFails
  exact Settles.after_acts (acts_sectionChanged x) (Settles.after (settles_raiseSectionFault x)
    (.of_quiet (Acts.after (acts_modRec (fun _ h => h)) (acts_queueOrder _))))

theorem settles_afterProving (x : Nat) : Settles p s (afterProving x s) := by
  refine .of_quiet ?_
  unfold afterProving
  dsimp only
  split
  · exact acts_sectionChanged x
  · split
    · exact Acts.after (acts_startIsolation x) (acts_sectionChanged x)
    · exact Acts.after (acts_provingTest x) (acts_sectionChanged x)

theorem settles_provingRunsOut (x : Nat) (f : SectionFields) : Settles p s (provingRunsOut x f s) := by
  unfold provingRunsOut
  exact Settles.after (settles_afterProving x) (Settles.after (settles_raiseProvingTimeout x)
    (.of_quiet (acts_modRec (fun _ h => h))))

theorem acts_oweOne (x : Nat) : Acts p s (oweOne x s) := by
  have h : Acts p s (modRec x (fun r => { r with owed := satSucc Config.maxOwed r.owed }) s) := acts_modRec (fun _ h => satSucc_le h)
  unfold oweOne
  dsimp only
  split
  · exact Acts.after (acts_provingTest x) (Acts.after (acts_sectionChanged x) h)
  · exact Acts.after (acts_provingTest x) h

theorem acts_cancelOnClear (x : Nat) (r : SectRec) {q : State × TractionOutcome} (h : cancelOnClear x r s = .ok q) : Acts p s q.1 := by
  unfold cancelOnClear at h
  split at h
  · cases h; exact Acts.after (acts_sectionChanged x) (acts_modRec (fun _ h => h))
  · cases h; exact .refl

theorem acts_pendOnClear (x : Nat) (r : SectRec) {q : State × TractionOutcome} (h : pendOnClear x r s = .ok q) : Acts p s q.1 := by
  unfold pendOnClear at h
  split at h
  · cases h; exact .refl
  · cases h; exact Acts.after (acts_sectionChanged x) (acts_modRec (fun _ h => h))

theorem acts_energiseAct (x : Nat) (r : SectRec) (f : SectionFields) {q : State × TractionOutcome} (h : energiseAct x r f s = .ok q) :
    Acts p s q.1 := by
  unfold energiseAct at h
  repeat' split at h
  all_goals first
    | exact acts_cancelOnClear x r h
    | cases h; done
    | (cases h; first | with_reducible exact .refl | exact acts_startEnergise x | exact acts_modRec (fun _ h => h))

theorem acts_isolateAct (x : Nat) (r : SectRec) (f : SectionFields) {q : State × TractionOutcome} (h : isolateAct x r f s = .ok q) :
    Acts p s q.1 := by
  unfold isolateAct at h
  repeat' split at h
  all_goals first
    | cases h; done
    | (cases h; first | with_reducible exact .refl | exact acts_startIsolation x | exact acts_modRec (fun _ h => h))

theorem acts_isolateOnClearAct (x : Nat) (r : SectRec) (f : SectionFields) {q : State × TractionOutcome}
    (h : isolateOnClearAct x r f s = .ok q) : Acts p s q.1 := by
  unfold isolateOnClearAct at h
  repeat' split at h
  all_goals first
    | exact acts_pendOnClear x r h
    | cases h; done
    | (cases h; first | with_reducible exact .refl | exact acts_startIsolation x)

theorem acts_earthAct (x : Nat) (r : SectRec) (f : SectionFields) {q : State × TractionOutcome} (h : earthAct x r f s = .ok q) :
    Acts p s q.1 := by
  unfold earthAct at h
  repeat' split at h
  all_goals first
    | cases h; done
    | (cases h; first | with_reducible exact .refl | exact Acts.after (acts_sectionChanged x) (acts_modRec (fun _ h => h)))

theorem acts_unearthAct (x : Nat) (r : SectRec) (f : SectionFields) {q : State × TractionOutcome} (h : unearthAct x r f s = .ok q) :
    Acts p s q.1 := by
  unfold unearthAct at h
  repeat' split at h
  all_goals first
    | cases h; done
    | (cases h; first | with_reducible exact .refl | exact Acts.after (acts_sectionChanged x) (acts_modRec (fun _ h => h)))

theorem acts_tractionCommand (x : Nat) {act : SectRec → SectionFields → State → Except Reply (State × TractionOutcome)}
    (ha : ∀ r f q, act r f s = .ok q → Acts p s q.1) : Acts p s (tractionCommand x act s).1 := by
  unfold tractionCommand
  split
  · exact .refl
  · split
    · split
      · exact .refl
      · split
        · exact .refl
        · next q h => exact ha _ _ _ h
    · exact .refl

theorem acts_proveNowOwner (x : Nat) : Acts p s (proveNowOwner x s).1 := by
  unfold proveNowOwner
  repeat' split
  all_goals first | with_reducible exact .refl | exact acts_oweOne x

theorem settles_uncommandedOpen (x : Nat) : Settles p s (uncommandedOpen x s) := by
  unfold uncommandedOpen
  exact Settles.after_acts (acts_sectionChanged x) (Settles.after (settles_raiseSectionFault x)
    (.of_quiet (acts_modRec (fun _ h => h))))

theorem acts_wentLive (x : Nat) : Acts p s (wentLive x s) := Acts.after (acts_provingTest x) (acts_sectionChanged x)

theorem settles_toldFault {x : Nat} {b : Bool} {t : State} (h : Settles p s t) :
    Settles p s (if b then raiseSectionFault x t else t) := by
  cases b
  · exact h
  · exact Settles.after (settles_raiseSectionFault x) h

theorem settles_uncommandedClose (x : Nat) (f : SectionFields) (w : SectState) : Settles p s (uncommandedClose x f w s) := by
  unfold uncommandedClose
  have h1 : Acts p.quiet s (modRec x (fun r => { r with pending := none, lastEnergiseStart := some s.now }) s) := acts_modRec (fun _ h => h)
  dsimp only
  generalize modRec x (fun r => { r with pending := none, lastEnergiseStart := some s.now }) s = s1 at h1 ⊢
  split
  · exact settles_toldFault (.of_quiet (Acts.after (acts_startIsolation x) (Acts.after (acts_modRec (fun _ h => h)) h1)))
  · exact Settles.after_acts (acts_wentLive x) (settles_toldFault (.of_quiet (Acts.after (acts_modRec (fun _ h => h)) h1)))

theorem settles_feedbackAct (x : Nat) (o : Position) (f : SectionFields) (r : SectRec) : Settles p s (feedbackAct x o f r s).1 := by
  unfold feedbackAct
  split
  all_goals try dsimp only
  · exact settles_uncommandedOpen x
  · exact settles_uncommandedOpen x
  · exact Settles.of_quiet (Acts.after (acts_sectionChanged x) (acts_modRec (fun _ h => h)))
  · exact Settles.of_quiet (Acts.after (acts_wentLive x) (acts_modRec (fun _ h => h)))
  · exact settles_uncommandedClose ..
  · exact settles_uncommandedClose ..
  · exact .refl

theorem settles_breakerFeedbackOwner (x : Nat) (o : Enum Position) : Settles p s (breakerFeedbackOwner x o s).1 := by
  unfold breakerFeedbackOwner
  split
  · exact .refl
  · split
    · exact .refl
    · split
      · exact Settles.after (settles_feedbackAct ..) (.of_quiet (acts_modRec (fun _ h => h)))
      · exact .refl

theorem settles_provingResult (x : Nat) (o : ProveOutcome) (f : SectionFields) : Settles p s (provingResult x o f s) := by
  unfold provingResult
  have h1 : Acts p.quiet s (modRec x (fun r => { provingOver s f r with owed := 0 }) s) := acts_modRec (fun _ _ => Nat.zero_le _)
  dsimp only
  generalize modRec x (fun r => { provingOver s f r with owed := 0 }) s = s1 at h1 ⊢
  cases o
  · exact Settles.after (settles_afterProving x) (.of_quiet h1)
  · exact Settles.after (settles_afterProving x) (Settles.after (settles_raiseProvingLow x) (.of_quiet h1))

theorem settles_proveResultOwner (x : Nat) (o : Enum ProveOutcome) : Settles p s (proveResultOwner x o s).1 := by
  unfold proveResultOwner
  repeat' split
  all_goals first | with_reducible exact .refl | exact settles_provingResult ..

theorem settles_feedChanged (z : Nat) (a b : FeedState) : Settles p s (feedChanged z a b s) := by
  have h1 : Settles p s (rederiveCapacity z (report .feedChange s)) := .of_quiet (Acts.after (acts_rederiveCapacity z) (acts_report _))
  unfold feedChanged
  dsimp only
  split
  · exact h1.trans (settles_raiseFeedLost z)
  · split
    · exact h1.trans (.of_quiet (acts_endCondition ..))
    · exact h1

theorem settles_measure (z : Nat) (f : Zone) (r : ZoneRec) (a b : Nat) : Settles p s (measure z f r a b s) := by
  have h1 : Settles p s { s with trc := { s.trc with
      zones := tmod s.trc.zones z (fun q => { q with feed := nextFeed f r.feed a b, measured := some { vp := a, vt := b } }) } } :=
    .of_quiet (.single (.zones _ (tkeys_tmod ..)))
  unfold measure
  dsimp only
  split
  · exact h1
  · exact h1.trans (settles_feedChanged ..)

theorem settles_feedMeasureOwner (z a b : Nat) : Settles p s (feedMeasureOwner z a b s).1 := by
  unfold feedMeasureOwner
  repeat' split
  all_goals first | with_reducible exact .refl | exact settles_measure ..

theorem acts_readZonesOwner (d : Nat) : Acts p s (readZonesOwner d s).1 := by
  unfold readZonesOwner
  dsimp only
  split
  · exact acts_setCategory ..
  · exact .refl

/-! ## The Incident Manager's owners -/

theorem settles_countEach (q : Nat) (l : List Nat) : Settles p s (countEach q l s) :=
  settles_foldl (f := fun s c => (countDetection c q s).1) (fun _ _ => settles_countDetection ..) l s

theorem settles_detectActive (k q : Nat) : Settles p s (detectActive k q s).1 := by
  unfold detectActive
  split
  · exact .refl
  · next d _ =>
    generalize (if d.handling = .counted then matching s k q else []) = l
    dsimp only
    split
    · exact settles_raiseIncident _
    · exact settles_countEach ..

theorem acts_detectEnded (k q : Nat) : Acts p s (detectEnded k q s).1 := by
  unfold detectEnded
  dsimp only
  repeat' split
  all_goals first | with_reducible exact .refl | exact acts_endCondition ..

theorem settles_detectionOwner (k q : Nat) (r : Enum DetectionReport) : Settles p s (detectionOwner k q r s).1 := by
  unfold detectionOwner
  repeat' split
  all_goals first | with_reducible exact .refl | exact settles_detectActive .. | exact .of_quiet (acts_detectEnded ..)

theorem settles_raiseOwner (d : Nat) (v : Enum Severity) (a : Enum Action) (l : List Nat) (loc : RaiseLocation) :
    Settles p s (raiseOwner d v a l loc s).1 := by
  unfold raiseOwner
  dsimp only
  repeat' split
  all_goals first | with_reducible exact .refl | exact settles_raiseIncident _

theorem settles_ackOwner (d n : Nat) : Settles p s (ackOwner d n s).1 := by
  unfold ackOwner
  split
  · exact .refl
  · unfold acknowledge
    dsimp only
    split
    · exact .refresh (acts_inm rfl ⟨rfl, rfl, fun h => by simpa using h, fun h => by dsimp only; exact twf_tmod h _ _,
      fun h => by dsimp only; exact oneEntryEach_tmod _ (fun _ => ⟨rfl, rfl⟩) h⟩)
    · exact .refl
    · exact settles_removeIncident n

theorem settles_clearOwner (n : Nat) : Settles p s (clearOwner n s).1 := by
  unfold clearOwner
  split
  · exact .refl
  · split
    · exact .refl
    · split
      · exact .refl
      · split
        · refine .of_quiet (acts_quietInm ⟨rfl, rfl, fun h => by simpa using h, fun h => by dsimp only; exact twf_tmod h _ _,
      fun h => by dsimp only; exact oneEntryEach_tmod _ (fun _ => ⟨rfl, rfl⟩) h⟩
            (.of_parts rfl rfl ?_ rfl))
          unfold tmod
          rw [List.map_map]
          exact List.map_congr_left (fun e _ => by simp only [Function.comp]; split <;> rfl)
        · exact settles_liftIncident n

theorem settles_testDetectionOwner (c q : Nat) : Settles p s (testDetectionOwner c q s).1 := by
  unfold testDetectionOwner
  repeat' split
  all_goals first | with_reducible exact .refl | exact settles_countDetection ..

theorem settles_readTableOwner (d : Nat) : Settles p s (readTableOwner d s).1 :=
  .refresh (acts_inm rfl ⟨rfl, rfl, id, id, id⟩)

/-! ## The Announcement Controller's and the Attention Unit's owners -/

theorem acts_takeNotBefore (st : Nat) (q : Count) (e : QueueEntry) : Acts p s (takeNotBefore st q e s) :=
  Acts.after (acts_becameReady ..) (.single (.channels _ (channelsKept_tmod (fun c => by simp))))

theorem acts_announceEach (e : QueueEntry) (l : List Nat) (s : State) : Acts p s (announceEach e l s).1 := by
  induction l generalizing s with
  | nil => exact .refl
  | cons st l ih => exact Acts.after (ih _) (acts_joinQueue ..)

theorem acts_cancelAt (d t st : Nat) : Acts p s (cancelAt d t st s).1 := by
  unfold cancelAt
  split
  · exact .refl
  · next c hc =>
    have hl : (c.queue.filter (fun e => !e.ofSeries d t)).length ≤ c.queue.length := List.length_filter_le ..
    dsimp only
    split
    · refine Acts.after (acts_startAttempt st) (Acts.after (acts_setChannel (c := c) ?_ (fun h => le_trans hl h)) (acts_queueOrder _))
      simpa using hc
    · exact acts_setChannel hc (fun h => le_trans hl h)

theorem acts_cancelEach (d t : Nat) (l : List Nat) (s : State) : Acts p s (cancelEach d t l s).1 := by
  induction l generalizing s with
  | nil => exact .refl
  | cons st l ih => exact Acts.after (ih _) (acts_cancelAt ..)

theorem acts_clearOne (s : State) (c : Category) : Acts p s (clearOne s c) := by
  unfold clearOne
  split
  · split
    · exact Acts.after (acts_setCategory ..) (.single (.store _ ⟨rfl, fun _ => Nat.zero_le _, rfl⟩))
    · exact acts_setCategory ..
  · exact .refl

theorem acts_clearAttentionOwner (l : List Nat) : Acts p s (clearAttentionOwner l s).1 := by
  unfold clearAttentionOwner
  split
  · exact .refl
  · exact acts_foldl acts_clearOne _ _

theorem acts_readStatusOwner : Acts p s (readStatusOwner s).1 := acts_foldl acts_clearOne _ _

end Sys2Proof.Machine
end

