-- ==== Sys2Proof/Laws/Invariants.lean ====
section
/-! SUPPORT. Which acts keep which invariants: one lemma per invariant of Safety, over a single act and over what settles. -/

namespace Sys2Proof.Machine

open Relation (ReflTransGen)
open Sys2Proof.Safety

variable {p : Perm} {s t : State}

/-! ## Numbers of a table -/

theorem thas_iff_mem {α : Type} (t : Table α) (n : Nat) : thas t n = true ↔ n ∈ tkeys t := by
  unfold thas tkeys
  induction t with
  | nil => simp
  | cons q t ih =>
    rw [tget_cons]
    split
    · next e => simp [e]
    · next e => rw [ih]; simp [Ne.symm e]

theorem thas_of_keys {α β : Type} {t : Table α} {u : Table β} (h : tkeys u = tkeys t) (n : Nat) : thas u n = thas t n := by
  rw [Bool.eq_iff_iff, thas_iff_mem, thas_iff_mem, h]

theorem length_of_keys {α β : Type} {t : Table α} {u : Table β} (h : tkeys u = tkeys t) : u.length = t.length := by
  simpa [tkeys] using congrArg List.length h

theorem nil_of_keys {α : Type} {t u : Table α} (h : tkeys u = tkeys t) (ht : t = []) : u = [] := by
  rw [← List.length_eq_zero_iff, length_of_keys h, ht]; rfl

/-! ## Attention -/

theorem withCategory_canonical (c : Category) (on : Bool) (l : List Category) :
    withCategory c on l = Category.all.filter (fun d => (withCategory c on l).contains d) := by
  unfold withCategory
  apply List.filter_congr
  intro d hd
  have hall : d ∈ Category.all := hd
  by_cases h : d = c
  · subst h; cases on <;> simp [hall]
  · simp [h, hall]

theorem contains_withCategory (c d : Category) (on : Bool) (l : List Category) :
    (withCategory c on l).contains d = if d = c then on else l.contains d := by
  have hall : d ∈ Category.all := by cases d <;> decide
  unfold withCategory
  by_cases h : d = c
  · subst h; cases on <;> simp [hall]
  · simp [h, hall]

theorem setCategory_set (c : Category) (on : Bool) (s : State) :
    (setCategory c on s).atu.pending = if s.atu.pending.contains c = on then s.atu.pending else withCategory c on s.atu.pending := by
  unfold setCategory setPending
  split
  · rfl
  · split <;> rfl

/-- After a report the category stands as reported, and every other as before. -/
theorem contains_setCategory (c d : Category) (on : Bool) (s : State) :
    (setCategory c on s).atu.pending.contains d = if d = c then on else s.atu.pending.contains d := by
  rw [setCategory_set]
  split
  · next h =>
    split
    · next e => rw [e, h]
    · rfl
  · exact contains_withCategory ..

theorem attentionRecord_setCategory (c : Category) (on : Bool) (h : AttentionRecord s) : AttentionRecord (setCategory c on s) := by
  unfold setCategory
  split
  · exact h
  · have hc := withCategory_canonical c on s.atu.pending
    unfold setPending
    split
    · next e =>
      refine ⟨hc, ?_, ?_⟩
      · exact e.symm
      · intro f hf
        simp only [Option.map_eq_some_iff] at hf
        obtain ⟨g, hg, rfl⟩ := hf
        refine ⟨rfl, ?_⟩
        show g.highest = _
        rw [(h.2.2 g hg).2, ← h.2.1, ← e]
    · refine ⟨hc, rfl, ?_⟩
      intro f hf
      cases hf
      exact ⟨rfl, rfl⟩

theorem Act.attentionRecord (a : Act p s t) (h : AttentionRecord s) : AttentionRecord t := by
  cases a with
  | category c on => exact attentionRecord_setCategory c on h
  | _ => exact h

theorem Acts.attentionRecord (a : Acts p s t) (h : AttentionRecord s) : AttentionRecord t := a.keeps (fun _ _ => Act.attentionRecord) h

/-! ## Limits and ranges -/

theorem Acts.deskZeroFull (a : Acts p s t) (h : DeskZeroFull s) : DeskZeroFull t := by unfold DeskZeroFull; rw [a.settled.drt]; exact h

theorem Acts.clockRanges (a : Acts p s t) (h : ClockRanges s) : ClockRanges t := by unfold ClockRanges; rw [a.settled.clock]; exact h

theorem Act.linkLimits (a : Act p s t) (h : LinkLimits s) : LinkLimits t := by
  cases a with
  | category c on => obtain ⟨f, e⟩ := setCategory_link c on s; unfold LinkLimits; rw [e]; exact h
  | order o ho => exact ⟨h.1, by simp [Config.maxOutbound] at *; omega, h.2.2⟩
  | _ => exact h

theorem Acts.linkLimits (a : Acts p s t) (h : LinkLimits s) : LinkLimits t := a.keeps (fun _ _ => Act.linkLimits) h

theorem Act.unitsBalance (a : Act p s t) (h : UnitsBalance s) : UnitsBalance t := by
  cases a with
  | category c on => unfold UnitsBalance; rw [setCategory_gate]; exact h
  | arbiters t hk hb => exact hb h
  | _ => exact h

theorem Acts.unitsBalance (a : Acts p s t) (h : UnitsBalance s) : UnitsBalance t := a.keeps (fun _ _ => Act.unitsBalance) h

theorem Act.setupEmpty (a : Act p s t) (h : SetupEmpty s) : SetupEmpty t := by
  intro hs
  rw [a.settled.lds] at hs
  obtain ⟨h1, h2⟩ := h hs
  cases a with
  | category c on => simpa using ⟨h1, h2⟩
  | trains t hk hl => exact ⟨nil_of_keys hk h1, h2⟩
  | channels c hc =>
    refine ⟨h1, ?_⟩
    cases hcc : c with
    | nil => rfl
    | cons q r =>
      exfalso
      have := hc.has q.1
      rw [h2, hcc] at this
      simp [thas, tget_cons] at this
  | _ => exact ⟨h1, h2⟩

theorem Acts.setupEmpty (a : Acts p s t) (h : SetupEmpty s) : SetupEmpty t := a.keeps (fun _ _ => Act.setupEmpty) h

theorem storeBefore_iff (l : List Trip) : l.Pairwise storeBefore ↔
    (l.map Trip.key).Pairwise (fun a b => a.2.1 < b.2.1 ∨ (a.2.1 = b.2.1 ∧ a.1 < b.1)) := by
  rw [List.pairwise_map]; rfl

theorem numbers_of_keys (l : List Trip) : l.map Trip.number = (l.map Trip.key).map Prod.fst := by rw [List.map_map]; rfl

theorem StoreKept.ordered {b : Store} (k : StoreKept s.store b) (h : StoreOrdered s) : StoreOrdered { s with store := b } := by
  obtain ⟨h1, h2⟩ := h
  refine ⟨?_, ?_⟩
  · rw [storeBefore_iff] at *
    show (b.trips.map Trip.key).Pairwise _
    rw [k.keys]; exact h1
  · rw [numbers_of_keys] at *
    show ((b.trips.map Trip.key).map Prod.fst).Nodup
    rw [k.keys]; exact h2

theorem Act.storeOrdered (a : Act p s t) (h : StoreOrdered s) : StoreOrdered t := by
  cases a with
  | category c on => unfold StoreOrdered; rw [setCategory_store]; exact h
  | store b k => exact k.ordered h
  | _ => exact h

theorem Acts.storeOrdered (a : Acts p s t) (h : StoreOrdered s) : StoreOrdered t := a.keeps (fun _ _ => Act.storeOrdered) h

theorem entryCount_keys (l : List Trip) : entryCount l = ((l.map Trip.key).map (fun k => k.2.2)).sum := by
  unfold entryCount; rw [List.map_map]; rfl

theorem Act.withinCapacities (a : Act p s t) (h : WithinCapacities s) : WithinCapacities t := by
  obtain ⟨h1, h2, h3, h4, h5, h6, h7⟩ := h
  cases a with
  | category c on =>
    unfold WithinCapacities
    rw [setCategory_trt, setCategory_store, setCategory_inm, setCategory_anc, setCategory_trc]
    exact ⟨h1, h2, h3, h4, h5, h6, h7⟩
  | store b k =>
    refine ⟨h1, ?_, ?_, h4, h5, h6, k.corrected h7⟩
    · have := congrArg List.length k.keys
      simp only [List.length_map] at this
      show b.trips.length ≤ 2048
      omega
    · show entryCount b.trips ≤ 32768
      rw [entryCount_keys, k.keys, ← entryCount_keys]; exact h3
  | trains t hk hl => exact ⟨by rw [length_of_keys hk]; exact h1, h2, h3, h4, h5, h6, h7⟩
  | sections x hk ho => exact ⟨h1, h2, h3, h4, h5, ho h6, h7⟩
  | incidents m k hq => exact ⟨h1, h2, h3, k.room h4, h5, h6, h7⟩
  | channels c k => exact ⟨h1, h2, h3, h4, k.queues h5, h6, h7⟩
  | _ => exact ⟨h1, h2, h3, h4, h5, h6, h7⟩

theorem Acts.withinCapacities (a : Acts p s t) (h : WithinCapacities s) : WithinCapacities t :=
  a.keeps (fun _ _ => Act.withinCapacities) h

theorem Act.tablesCanonical (a : Act p s t) (h : TablesCanonical s) : TablesCanonical t := by
  cases a with
  | category c on => constructor <;> simp only [setCategory_lds, setCategory_trt, setCategory_reg, setCategory_gate,
      setCategory_trc, setCategory_inm, setCategory_anc, h.stations, h.stops, h.links, h.sectionDefs, h.zoneDefs, h.mergeDefs,
      h.classes, h.trains, h.occupancy, h.headways, h.lastRegs, h.mergeRecs, h.arbiters, h.sections, h.zones, h.incidents,
      h.effective, h.templates, h.plans, h.channels]
  | trains t hk hl => exact { h with trains := twf_of_keys hk h.trains }
  | occupancy t hk hl => exact { h with occupancy := twf_of_keys hk h.occupancy }
  | regulator a b c ha hb hc =>
    exact { h with headways := ha h.headways, lastRegs := hb h.lastRegs, mergeRecs := twf_of_keys hc h.mergeRecs }
  | arbiters t hk hb => exact { h with arbiters := twf_of_keys hk h.arbiters }
  | sections t hk hb => exact { h with sections := twf_of_keys hk h.sections }
  | zones t hk => exact { h with zones := twf_of_keys hk h.zones }
  | incidents m k hq => exact { h with incidents := k.canonical h.incidents, effective := twf_of_keys k.effective h.effective }
  | channels c k => exact { h with channels := k.canonical h.channels }
  | _ => exact { h with }

theorem Acts.tablesCanonical (a : Acts p s t) (h : TablesCanonical s) : TablesCanonical t :=
  a.keeps (fun _ _ => Act.tablesCanonical) h

theorem Act.oneEntryEach (a : Act p s t) (h : OneEntryEach s.inm.incidents) : OneEntryEach t.inm.incidents := by
  cases a with
  | category c on => rw [setCategory_inm]; exact h
  | incidents m k hq => exact k.each h
  | _ => exact h

theorem Acts.oneEntryEach (a : Acts p s t) (h : OneEntryEach s.inm.incidents) : OneEntryEach t.inm.incidents :=
  a.keeps (P := fun s => OneEntryEach s.inm.incidents) (fun _ _ => Act.oneEntryEach) h

theorem Act.recordsFollow (a : Act p s t) (h : RecordsFollow s) : RecordsFollow t := by
  intro n
  obtain ⟨h1, h2, h3, h4⟩ := h n
  cases a with
  | category c on => simpa using ⟨h1, h2, h3, h4⟩
  | occupancy t hk hl => exact ⟨h1, (thas_of_keys hk n).trans h2, h3, h4⟩
  | sections t hk hb => exact ⟨(thas_of_keys hk n).trans h1, h2, h3, h4⟩
  | zones t hk => exact ⟨h1, h2, h3, (thas_of_keys hk n).trans h4⟩
  | incidents m k hq => exact ⟨h1, h2, (thas_of_keys k.effective n).trans h3, h4⟩
  | _ => exact ⟨h1, h2, h3, h4⟩

theorem Acts.recordsFollow (a : Acts p s t) (h : RecordsFollow s) : RecordsFollow t := a.keeps (fun _ _ => Act.recordsFollow) h

/-! ## Where the trains are -/

theorem locSect_lds {s t : State} (h : t.lds = s.lds) (l : Location) : locSect t l = locSect s l := by
  unfold locSect stopSect linkSect; rw [h]

theorem trainsIn_whereabouts (s : State) (x : Nat) :
    trainsIn s x = (whereabouts s.trt.trains).countP (fun q => decide (locSect s q.2 = some x)) := by
  unfold trainsIn whereabouts; rw [List.countP_map]; rfl

theorem trainsIn_congr {s t : State} (hl : t.lds = s.lds) (hw : whereabouts t.trt.trains = whereabouts s.trt.trains) (x : Nat) :
    trainsIn t x = trainsIn s x := by
  rw [trainsIn_whereabouts, trainsIn_whereabouts, hw]
  exact List.countP_congr (fun q _ => by simp [locSect_lds hl])

theorem Act.occupancyTrue (hm : p.moving = false) (a : Act p s t) (h : OccupancyTrue s) : OccupancyTrue t := by
  have hl := a.settled.lds
  have key : t.trt.occupancy = s.trt.occupancy → whereabouts t.trt.trains = whereabouts s.trt.trains → OccupancyTrue t := by
    intro ho hw x n hx
    rw [trainsIn_congr hl hw]
    exact h x n (ho ▸ hx)
  cases a with
  | category c on => exact key (by simp) (by simp)
  | trains t hk hw => exact key rfl (hw.resolve_left (by simp [hm]))
  | occupancy t hk hw => exact absurd hw (by simp [hm])
  | _ => exact key rfl rfl

theorem Acts.occupancyTrue (hm : p.moving = false) (a : Acts p s t) (h : OccupancyTrue s) : OccupancyTrue t :=
  a.keeps (fun _ _ => Act.occupancyTrue hm) h

/-! ## The followed categories -/

/-- What holds of some captured settings in force without an entry, said of the trip inputs. -/
theorem looseInputs_any (m : Inm) (b : Captured → Bool) :
    (looseInputs m).any b = true ↔
      ∃ t ∈ m.inputs.toList, ∃ c, t.inForce = true ∧ t.entry = none ∧ t.captured = some c ∧ b c = true := by
  have one : ∀ (t : TripInput) (c : Captured), (if t.inForce && t.entry.isNone then t.captured else none) = some c ↔
      t.inForce = true ∧ t.entry = none ∧ t.captured = some c := by
    intro t c
    cases t.inForce <;> cases t.entry <;> simp
  simp only [looseInputs, List.any_eq_true, List.mem_filterMap, one]
  exact ⟨fun ⟨c, ⟨t, ht, h1, h2, h3⟩, hb⟩ => ⟨t, ht, c, h1, h2, h3, hb⟩,
    fun ⟨t, ht, c, h1, h2, h3, hb⟩ => ⟨c, ⟨t, ht, h1, h2, h3⟩, hb⟩⟩

theorem alarms_iff (s : State) (v : Severity) : unacknowledged s.inm v = true ↔ Alarms s v := by
  rw [unacknowledged, Bool.or_eq_true, looseInputs_any]
  simp [Alarms]

theorem emergency_iff (s : State) : severityInForce s.inm (fun v => v = .emergency) = true ↔ EmergencyInForce s := by
  rw [severityInForce, Bool.or_eq_true, looseInputs_any]
  simp [EmergencyInForce, Incident.inForce]

/-- The followed categories and LINE STOP as computed values. -/
structure Signs (s : State) : Prop where
  clock : s.atu.pending.contains .clockUnset = decide (s.clock.state = .unset)
  emergency : s.atu.pending.contains .emergencyIncident = unacknowledged s.inm .emergency
  major : s.atu.pending.contains .majorIncident = unacknowledged s.inm .major
  minor : s.atu.pending.contains .minorIncident = (unacknowledged s.inm .minor || s.inm.tableFull)
  lineStop : s.inm.lineStop = severityInForce s.inm (fun v => v = .emergency)

theorem signs_iff (s : State) : Signs s ↔ SignsFollow s := by
  have hm : ∀ c : Category, c ∈ s.atu.pending ↔ s.atu.pending.contains c = true := fun c => by simp
  unfold SignsFollow
  simp only [hm, ← alarms_iff, ← emergency_iff]
  constructor
  · intro h
    refine ⟨?_, ?_, ?_, ?_, ?_⟩
    · rw [h.clock]; exact decide_eq_true_iff
    · rw [h.emergency]
    · rw [h.major]
    · rw [h.minor, Bool.or_eq_true]
    · rw [h.lineStop]
  · rintro ⟨h1, h2, h3, h4, h5⟩
    exact ⟨by rw [Bool.eq_iff_iff, h1]; exact decide_eq_true_iff.symm, Bool.eq_iff_iff.2 h2, Bool.eq_iff_iff.2 h3,
      by rw [Bool.eq_iff_iff, h4, Bool.or_eq_true], Bool.eq_iff_iff.2 h5⟩

end Sys2Proof.Machine
end

