-- ==== Sys2Proof/Laws/Ranges.lean ====
section
/-! SUPPORT. The range checks of the requests are the ranges of the spec: for each, that it finds no field exactly where all are in range,
and finds field `k` exactly where `k` is the first out of range. -/

namespace Sys2Proof.Laws

open Sys2Proof.Machine Sys2Proof.Safety

set_option linter.unusedSimpArgs false

/-- Checks and ranges that agree one by one. -/
def Agree : List Bool → List Prop → Prop
  | [], [] => True
  | b :: bs, p :: ps => (b = true ↔ p) ∧ Agree bs ps
  | _, _ => False

theorem firstBad_cons (b : Bool) (l : List Bool) : firstBad (b :: l) = if b then (firstBad l).map (· + 1) else some 0 := by
  cases b <;> simp [firstBad, List.findIdx?_cons]

theorem allIn_cons (p : Prop) (ps : List Prop) : AllIn (p :: ps) ↔ p ∧ AllIn ps := List.forall_mem_cons

theorem firstOut_cons (p : Prop) (ps : List Prop) (k : Nat) :
    FirstOut (p :: ps) k ↔ (k = 0 ∧ ¬ p) ∨ (p ∧ ∃ j, k = j + 1 ∧ FirstOut ps j) := by
  cases k with
  | zero =>
    constructor
    · rintro ⟨q, hq, hn, -⟩
      exact .inl ⟨rfl, by cases hq; exact hn⟩
    · rintro (⟨-, hn⟩ | ⟨-, j, hj, -⟩)
      · exact ⟨p, rfl, hn, fun j q hj => absurd hj (Nat.not_lt_zero j)⟩
      · cases hj
  | succ k =>
    constructor
    · rintro ⟨q, hq, hn, ha⟩
      exact .inr ⟨ha 0 p k.succ_pos rfl, k, rfl, q, hq, hn, fun j r hj hr => ha (j + 1) r (Nat.succ_lt_succ hj) hr⟩
    · rintro (⟨h, -⟩ | ⟨hp, j, hj, q, hq, hn, ha⟩)
      · cases h
      · cases hj
        refine ⟨q, hq, hn, fun i r hi hr => ?_⟩
        cases i with
        | zero => cases hr; exact hp
        | succ i => exact ha i r (Nat.lt_of_succ_lt_succ hi) hr

theorem firstBad_none : ∀ {bs : List Bool} {ps : List Prop}, Agree bs ps → (firstBad bs = none ↔ AllIn ps)
  | [], [], _ => ⟨fun _ => nofun, fun _ => rfl⟩
  | b :: bs, p :: ps, ⟨h, hs⟩ => by
    rw [firstBad_cons, allIn_cons, ← h, ← firstBad_none hs]
    cases b <;> simp
  | [], _ :: _, h => h.elim
  | _ :: _, [], h => h.elim

theorem firstBad_some : ∀ {bs : List Bool} {ps : List Prop} (k : Nat), Agree bs ps → (firstBad bs = some k ↔ FirstOut ps k)
  | [], [], k, _ => ⟨nofun, fun ⟨_, h, _⟩ => by cases h⟩
  | b :: bs, p :: ps, k, ⟨h, hs⟩ => by
    rw [firstBad_cons, firstOut_cons, ← h]
    simp only [← firstBad_some _ hs]
    cases b <;> simp [eq_comm, and_comm]
  | [], _ :: _, _, h => h.elim
  | _ :: _, [], _, h => h.elim

theorem listed_iff {α : Type} (e : Enum α) : Enum.known e = true ↔ Listed e := by cases e <;> simp [Enum.known, Listed]

theorem withinOpt_iff (lo hi : Nat) (o : Option Nat) : withinOpt lo hi o = true ↔ ∀ v ∈ o, lo ≤ v ∧ v ≤ hi := by
  cases o <;> simp [withinOpt, within]

theorem withinAny_iff (hi : Nat) (o : OrAny) : withinAny 0 hi o = true ↔ NumUpTo hi o := by
  cases o <;> simp [withinAny, within, NumUpTo]

theorem okInterval_iff (v : Nat) : okInterval v = true ↔ v = 0 ∨ (600 ≤ v ∧ v ≤ 72000) := by simp [okInterval, within]

theorem setBelow_iff (n : Nat) (l : List Nat) : setBelow (n + 1) l = true ↔ ∀ x ∈ l, x ≤ n := by
  simp [setBelow, Nat.lt_succ_iff]

theorem badStation_agrees (n : Nat) (f : StationFields) : ∃ bs, badStation n f = firstBad bs ∧ Agree bs (stationRanges n f) := by
  refine ⟨_, rfl, ?_⟩
  simp [Agree, stationRanges, within, okInterval_iff, setBelow_iff, listed_iff, withinOpt_iff, withinAny_iff, Nat.lt_succ_iff]

theorem badStation_none (n : Nat) (f : StationFields) : badStation n f = none ↔ AllIn (stationRanges n f) :=
  let ⟨_, h, ha⟩ := badStation_agrees n f; h ▸ firstBad_none ha

theorem badStation_some (n : Nat) (f : StationFields) (k : Nat) : badStation n f = some k ↔ FirstOut (stationRanges n f) k :=
  let ⟨_, h, ha⟩ := badStation_agrees n f; h ▸ firstBad_some k ha

theorem badStop_agrees (n : Nat) (f : StopFields) : ∃ bs, badStop n f = firstBad bs ∧ Agree bs (stopRanges n f) := by
  refine ⟨_, rfl, ?_⟩
  simp [Agree, stopRanges, within, okInterval_iff, setBelow_iff, listed_iff, withinOpt_iff, withinAny_iff, Nat.lt_succ_iff]

theorem badStop_none (n : Nat) (f : StopFields) : badStop n f = none ↔ AllIn (stopRanges n f) :=
  let ⟨_, h, ha⟩ := badStop_agrees n f; h ▸ firstBad_none ha

theorem badStop_some (n : Nat) (f : StopFields) (k : Nat) : badStop n f = some k ↔ FirstOut (stopRanges n f) k :=
  let ⟨_, h, ha⟩ := badStop_agrees n f; h ▸ firstBad_some k ha

theorem badLink_agrees (n : Nat) (f : LinkFields) : ∃ bs, badLink n f = firstBad bs ∧ Agree bs (linkRanges n f) := by
  refine ⟨_, rfl, ?_⟩
  simp [Agree, linkRanges, within, okInterval_iff, setBelow_iff, listed_iff, withinOpt_iff, withinAny_iff, Nat.lt_succ_iff]
  omega

theorem badLink_none (n : Nat) (f : LinkFields) : badLink n f = none ↔ AllIn (linkRanges n f) :=
  let ⟨_, h, ha⟩ := badLink_agrees n f; h ▸ firstBad_none ha

theorem badLink_some (n : Nat) (f : LinkFields) (k : Nat) : badLink n f = some k ↔ FirstOut (linkRanges n f) k :=
  let ⟨_, h, ha⟩ := badLink_agrees n f; h ▸ firstBad_some k ha

theorem badSection_agrees (n : Nat) (f : SectionFields) : ∃ bs, badSection n f = firstBad bs ∧ Agree bs (sectionRanges n f) := by
  refine ⟨_, rfl, ?_⟩
  simp [Agree, sectionRanges, within, okInterval_iff, setBelow_iff, listed_iff, withinOpt_iff, withinAny_iff, Nat.lt_succ_iff]

theorem badSection_none (n : Nat) (f : SectionFields) : badSection n f = none ↔ AllIn (sectionRanges n f) :=
  let ⟨_, h, ha⟩ := badSection_agrees n f; h ▸ firstBad_none ha

theorem badSection_some (n : Nat) (f : SectionFields) (k : Nat) : badSection n f = some k ↔ FirstOut (sectionRanges n f) k :=
  let ⟨_, h, ha⟩ := badSection_agrees n f; h ▸ firstBad_some k ha

theorem badZone_agrees (n : Nat) (f : ZoneFields) : ∃ bs, badZone n f = firstBad bs ∧ Agree bs (zoneRanges n f) := by
  refine ⟨_, rfl, ?_⟩
  simp [Agree, zoneRanges, within, okInterval_iff, setBelow_iff, listed_iff, withinOpt_iff, withinAny_iff, Nat.lt_succ_iff]
  omega

theorem badZone_none (n : Nat) (f : ZoneFields) : badZone n f = none ↔ AllIn (zoneRanges n f) :=
  let ⟨_, h, ha⟩ := badZone_agrees n f; h ▸ firstBad_none ha

theorem badZone_some (n : Nat) (f : ZoneFields) (k : Nat) : badZone n f = some k ↔ FirstOut (zoneRanges n f) k :=
  let ⟨_, h, ha⟩ := badZone_agrees n f; h ▸ firstBad_some k ha

theorem badMerge_agrees (n : Nat) (f : MergeFields) : ∃ bs, badMerge n f = firstBad bs ∧ Agree bs (mergeRanges n f) := by
  refine ⟨_, rfl, ?_⟩
  simp [Agree, mergeRanges, within, okInterval_iff, setBelow_iff, listed_iff, withinOpt_iff, withinAny_iff, Nat.lt_succ_iff]

theorem badMerge_none (n : Nat) (f : MergeFields) : badMerge n f = none ↔ AllIn (mergeRanges n f) :=
  let ⟨_, h, ha⟩ := badMerge_agrees n f; h ▸ firstBad_none ha

theorem badMerge_some (n : Nat) (f : MergeFields) (k : Nat) : badMerge n f = some k ↔ FirstOut (mergeRanges n f) k :=
  let ⟨_, h, ha⟩ := badMerge_agrees n f; h ▸ firstBad_some k ha

theorem badClass_agrees (n d : Nat) : ∃ bs, badClass n d = firstBad bs ∧ Agree bs (classRanges n d) := by
  refine ⟨_, rfl, ?_⟩
  simp [Agree, classRanges, within, okInterval_iff, setBelow_iff, listed_iff, withinOpt_iff, withinAny_iff, Nat.lt_succ_iff]

theorem badClass_none (n d : Nat) : badClass n d = none ↔ AllIn (classRanges n d) :=
  let ⟨_, h, ha⟩ := badClass_agrees n d; h ▸ firstBad_none ha

theorem badClass_some (n d : Nat) (k : Nat) : badClass n d = some k ↔ FirstOut (classRanges n d) k :=
  let ⟨_, h, ha⟩ := badClass_agrees n d; h ▸ firstBad_some k ha

theorem badTripInput_agrees (n : Nat) (f : TripInputFields) : ∃ bs, badTripInput n f = firstBad bs ∧ Agree bs (tripInputRanges n f) := by
  refine ⟨_, rfl, ?_⟩
  simp [Agree, tripInputRanges, within, okInterval_iff, setBelow_iff, listed_iff, withinOpt_iff, withinAny_iff, Nat.lt_succ_iff]

theorem badTripInput_none (n : Nat) (f : TripInputFields) : badTripInput n f = none ↔ AllIn (tripInputRanges n f) :=
  let ⟨_, h, ha⟩ := badTripInput_agrees n f; h ▸ firstBad_none ha

theorem badTripInput_some (n : Nat) (f : TripInputFields) (k : Nat) : badTripInput n f = some k ↔ FirstOut (tripInputRanges n f) k :=
  let ⟨_, h, ha⟩ := badTripInput_agrees n f; h ▸ firstBad_some k ha

theorem badDetectionKind_agrees (n : Nat) (f : DetectionKindFields) : ∃ bs, badDetectionKind n f = firstBad bs ∧ Agree bs (detectionKindRanges n f) := by
  refine ⟨_, rfl, ?_⟩
  simp [Agree, detectionKindRanges, within, okInterval_iff, setBelow_iff, listed_iff, withinOpt_iff, withinAny_iff, Nat.lt_succ_iff]

theorem badDetectionKind_none (n : Nat) (f : DetectionKindFields) : badDetectionKind n f = none ↔ AllIn (detectionKindRanges n f) :=
  let ⟨_, h, ha⟩ := badDetectionKind_agrees n f; h ▸ firstBad_none ha

theorem badDetectionKind_some (n : Nat) (f : DetectionKindFields) (k : Nat) : badDetectionKind n f = some k ↔ FirstOut (detectionKindRanges n f) k :=
  let ⟨_, h, ha⟩ := badDetectionKind_agrees n f; h ▸ firstBad_some k ha

theorem badEscalation_agrees (n : Nat) (f : EscalationFields) : ∃ bs, badEscalation n f = firstBad bs ∧ Agree bs (escalationRanges n f) := by
  refine ⟨_, rfl, ?_⟩
  simp [Agree, escalationRanges, within, okInterval_iff, setBelow_iff, listed_iff, withinOpt_iff, withinAny_iff, Nat.lt_succ_iff]

theorem badEscalation_none (n : Nat) (f : EscalationFields) : badEscalation n f = none ↔ AllIn (escalationRanges n f) :=
  let ⟨_, h, ha⟩ := badEscalation_agrees n f; h ▸ firstBad_none ha

theorem badEscalation_some (n : Nat) (f : EscalationFields) (k : Nat) : badEscalation n f = some k ↔ FirstOut (escalationRanges n f) k :=
  let ⟨_, h, ha⟩ := badEscalation_agrees n f; h ▸ firstBad_some k ha

theorem badTemplate_agrees (n : Nat) (f : TemplateFields) : ∃ bs, badTemplate n f = firstBad bs ∧ Agree bs (templateRanges n f) := by
  refine ⟨_, rfl, ?_⟩
  simp [Agree, templateRanges, within, okInterval_iff, setBelow_iff, listed_iff, withinOpt_iff, withinAny_iff, Nat.lt_succ_iff]

theorem badTemplate_none (n : Nat) (f : TemplateFields) : badTemplate n f = none ↔ AllIn (templateRanges n f) :=
  let ⟨_, h, ha⟩ := badTemplate_agrees n f; h ▸ firstBad_none ha

theorem badTemplate_some (n : Nat) (f : TemplateFields) (k : Nat) : badTemplate n f = some k ↔ FirstOut (templateRanges n f) k :=
  let ⟨_, h, ha⟩ := badTemplate_agrees n f; h ▸ firstBad_some k ha

theorem badPlan_agrees (n : Nat) (f : PlanFields) : ∃ bs, badPlan n f = firstBad bs ∧ Agree bs (planRanges n f) := by
  refine ⟨_, rfl, ?_⟩
  simp [Agree, planRanges, within, okInterval_iff, setBelow_iff, listed_iff, withinOpt_iff, withinAny_iff, Nat.lt_succ_iff]

theorem badPlan_none (n : Nat) (f : PlanFields) : badPlan n f = none ↔ AllIn (planRanges n f) :=
  let ⟨_, h, ha⟩ := badPlan_agrees n f; h ▸ firstBad_none ha

theorem badPlan_some (n : Nat) (f : PlanFields) (k : Nat) : badPlan n f = some k ↔ FirstOut (planRanges n f) k :=
  let ⟨_, h, ha⟩ := badPlan_agrees n f; h ▸ firstBad_some k ha

theorem badScheduled_agrees (n : Nat) (f : ScheduledFields) : ∃ bs, badScheduled n f = firstBad bs ∧ Agree bs (scheduledRanges n f) := by
  refine ⟨_, rfl, ?_⟩
  simp [Agree, scheduledRanges, within, okInterval_iff, setBelow_iff, listed_iff, withinOpt_iff, withinAny_iff, Nat.lt_succ_iff]
  exact ⟨by omega, fun _ => by tauto⟩

theorem badScheduled_none (n : Nat) (f : ScheduledFields) : badScheduled n f = none ↔ AllIn (scheduledRanges n f) :=
  let ⟨_, h, ha⟩ := badScheduled_agrees n f; h ▸ firstBad_none ha

theorem badScheduled_some (n : Nat) (f : ScheduledFields) (k : Nat) : badScheduled n f = some k ↔ FirstOut (scheduledRanges n f) k :=
  let ⟨_, h, ha⟩ := badScheduled_agrees n f; h ▸ firstBad_some k ha

theorem badRights_agrees (n : Nat) (l : List (Nat × Enum Level)) : ∃ bs, badRights n l = firstBad bs ∧ Agree bs (rightsRanges n l) := by
  refine ⟨_, rfl, ?_⟩
  simp [Agree, rightsRanges, within, okInterval_iff, setBelow_iff, listed_iff, withinOpt_iff, withinAny_iff, Nat.lt_succ_iff]
  simp only [and_assoc]

theorem badRights_none (n : Nat) (l : List (Nat × Enum Level)) : badRights n l = none ↔ AllIn (rightsRanges n l) :=
  let ⟨_, h, ha⟩ := badRights_agrees n l; h ▸ firstBad_none ha

theorem badRights_some (n : Nat) (l : List (Nat × Enum Level)) (k : Nat) : badRights n l = some k ↔ FirstOut (rightsRanges n l) k :=
  let ⟨_, h, ha⟩ := badRights_agrees n l; h ▸ firstBad_some k ha

theorem badEnter_agrees (n c p : Nat) (t : Option Nat) : ∃ bs, badEnter n c p t = firstBad bs ∧ Agree bs (enterRanges n c p t) := by
  refine ⟨_, rfl, ?_⟩
  simp [Agree, enterRanges, within, okInterval_iff, setBelow_iff, listed_iff, withinOpt_iff, withinAny_iff, Nat.lt_succ_iff]

theorem badEnter_none (n c p : Nat) (t : Option Nat) : badEnter n c p t = none ↔ AllIn (enterRanges n c p t) :=
  let ⟨_, h, ha⟩ := badEnter_agrees n c p t; h ▸ firstBad_none ha

theorem badEnter_some (n c p : Nat) (t : Option Nat) (k : Nat) : badEnter n c p t = some k ↔ FirstOut (enterRanges n c p t) k :=
  let ⟨_, h, ha⟩ := badEnter_agrees n c p t; h ▸ firstBad_some k ha

end Sys2Proof.Laws
end

