-- ==== Sys2Proof/Laws/Receiver.lean ====
section
/-! SUPPORT. What the receiver's operations can do, said once each: the mark of a gap, a byte taken, and what comes next on RXD (R182, R183,
log 8). -/

namespace Sys2Proof.Machine

open Sys2Proof.Safety

variable {s : State}

/-- A discard whose error count is within its width leaves the state that the statements name. -/
theorem discardFrame_eq_discarded (h : s.link.errors ≤ 65535) : discardFrame s = discarded s := by
  have hn : satSucc 65535 s.link.errors = min 65535 (s.link.errors + 1) := by unfold satSucc; split <;> omega
  simp only [discardFrame, discarded, Config.maxLinkErrors, hn]

/-- A gap is marked in front of what comes next where bytes of the frame are kept, and nothing else changes. -/
theorem markGap_eq (s : State) : markGap s = { s with rxd := if s.link.frame = [] then s.rxd else .gap :: s.rxd } := by
  unfold markGap; split <;> rfl

/-- What a byte changes at the receiver: the queue, and within a frame the gap counter and the bytes kept. -/
theorem receiveByte_eq (b : RxByte) (s : State) : ∃ found frame gap, receiveByte b s =
    { s with pending := found, link := { s.link with gapCycles := gap, frame := frame } } := by
  unfold receiveByte
  split
  · exact ⟨_, _, _, rfl⟩
  · exact ⟨_, _, _, rfl⟩

/-- What comes next on RXD changes the input itself, the queue, the gap counter and the bytes kept, and nothing else. -/
theorem takeItem_eq (s : State) : ∃ rest found frame gap, takeItem s =
    { s with rxd := rest, pending := found, link := { s.link with gapCycles := gap, frame := frame } } := by
  unfold takeItem
  split
  · exact ⟨_, _, _, _, rfl⟩
  · next i rest _ =>
    dsimp only
    split
    · cases i with
      | byte n b =>
        obtain ⟨found, frame, gap, e⟩ := receiveByte_eq b { s with rxd := rest }
        exact ⟨_, _, _, _, e⟩
      | gap => exact ⟨_, _, _, _, rfl⟩
    · exact ⟨_, _, _, _, rfl⟩

end Sys2Proof.Machine
end

