-- ==== Sys2Proof/WellFormed.lean ====
section
/-! DEFINITION. Which commands a frame or an event can carry: every number fits the bytes R182 gives its field, the desk is
0 to 7, and a set is a rising list of the items its mask has bits for. A number that fits its field and lies outside its
RULE's range is well formed: the owner answers it RANGE. -/

namespace Sys2Proof.WellFormed

/-- A number that fits in `b` bytes (R182). -/
def fits (b n : Nat) : Bool := n < 256 ^ b

/-- An optional number that fits in `b` bytes. -/
def fitsOpt (b : Nat) (o : Option Nat) : Bool := o.all (fits b)

/-- A signed number that fits in `b` bytes, two's complement (R182). -/
def fitsInt (b : Nat) (v : Int) : Bool := -(256 ^ b / 2 : Int) ≤ v && v < (256 ^ b / 2 : Int)

/-- A number or ANY whose number fits in `b` bytes. -/
def fitsAny (b : Nat) : OrAny → Bool
  | .num n => fits b n
  | .any => true

/-- An enumerated byte: a name, or a byte (R182). -/
def enum {α : Type} : Enum α → Bool
  | .val _ => true
  | .outside b => fits 1 b

/-- Strictly rising numbers, the canonical form of a set. -/
def rising : List Nat → Bool
  | a :: b :: r => a < b && rising (b :: r)
  | _ => true

/-- A set carried as a mask of `bits` bits (R182). -/
def mask (bits : Nat) (l : List Nat) : Bool := rising l && l.all (· < bits)

/-- The header of a request (R182): the tag is one byte and the desk is 0 to 7, R183 discarding any other. -/
def hdr (h : Hdr) : Bool := fits 1 h.tag && h.desk ≤ 7

/-- A definition's fields satisfy `p`, or it is a removal. -/
def defn {α : Type} (p : α → Bool) : Definition α → Bool
  | .fields a => p a
  | .removal => true

def station (f : StationFields) : Bool := fits 1 f.area && fits 2 f.lead

def stop (f : StopFields) : Bool :=
  fits 1 f.station && enum f.direction && fits 1 f.sect && fits 2 f.minDwell && fits 2 f.maxDwell && fits 2 f.headway
    && fits 1 f.profile && fitsOpt 1 f.nextLink

def link (f : LinkFields) : Bool :=
  fits 1 f.fromStop && fits 1 f.toStop && fits 1 f.sect && fits 2 f.run0 && fits 2 f.run1 && fits 2 f.run2 && fits 2 f.run3

def sect (f : SectionFields) : Bool :=
  fits 1 f.zone && fits 1 f.area && fits 2 f.deadTime && fits 2 f.cycleTime && fits 2 f.settleTime && fits 2 f.energiseTimeout
    && fits 2 f.isolateTimeout && fits 4 f.provingInterval && fits 2 f.provingDuration && fits 2 f.provingTimeout

def zone (f : ZoneFields) : Bool :=
  fits 1 f.area && fits 1 f.normalCap && fits 1 f.tieCap && fits 2 f.vtrip && fits 2 f.ht && fits 2 f.hc && fits 2 f.vdead
    && fits 1 f.compareOnly && fits 2 f.startWindow && fits 2 f.releaseTimeout && fits 1 f.starvation

def merge (f : MergeFields) : Bool := fits 1 f.stop && fits 1 f.linkA && fits 1 f.linkB && fits 2 f.separation

def entry (e : EntryFields) : Bool :=
  fits 1 e.stop && fitsOpt 4 e.sa && fitsOpt 4 e.sd && fits 2 e.dmin && fits 2 e.dmax && fits 1 e.profile

def trip (t : TripFields) : Bool :=
  fits 2 t.number && mask 8 t.dayMask && fitsOpt 2 t.next && fits 1 t.entries.length && t.entries.all entry

def replacement (e : Replacement) : Bool :=
  fits 1 e.stop && fitsOpt 4 e.sa && fitsOpt 4 e.sd && fits 2 e.dmin && fits 2 e.dmax

def flip (f : StoreFlip) : Bool :=
  fits 2 f.trip && f.index < 64 && match f.kind with
    | .single => true
    | .double p => p < 64

def tripInput (f : TripInputFields) : Bool :=
  fits 1 f.qualTime && enum f.mode && mask 24 f.targets && enum f.action && enum f.severity

def detectionKind (f : DetectionKindFields) : Bool :=
  enum f.handling && enum f.severity && enum f.action && enum f.mode && enum f.scope

def escalation (f : EscalationFields) : Bool :=
  fits 1 f.kind && fitsAny 1 f.filter && fits 1 f.period && enum f.severity && enum f.action && enum f.mode

def template (f : TemplateFields) : Bool := fits 2 f.length && fits 1 f.params

def plan (f : PlanFields) : Bool :=
  enum f.source && fitsAny 2 f.number && enum f.minSeverity && fits 1 f.opening && fitsOpt 1 f.reminder && fits 2 f.interval
    && fitsOpt 1 f.resumed

def scheduled (f : ScheduledFields) : Bool :=
  fits 1 f.enabled && mask 8 f.dayMask && fitsAny 1 f.hour && fitsAny 1 f.minute && fitsAny 1 f.second && enum f.mode
    && mask 32 f.stations && fits 1 f.template && enum f.priority

def remaining : Remaining → Bool
  | .count n => fits 1 n
  | .untilClosed => true

def reminder (r : ReminderFields) : Bool := fits 1 r.template && fits 2 r.interval && remaining r.count

def raiseLocation : RaiseLocation → Bool
  | .stop n => fits 1 n
  | .sect n => fits 1 n

/-- The bytes that R189 gives to request kinds. -/
def requestKindByte (k : Nat) : Bool :=
  (0x01 ≤ k && k ≤ 0x0C) || (0x10 ≤ k && k ≤ 0x13) || (0x18 ≤ k && k ≤ 0x1C) || (0x20 ≤ k && k ≤ 0x25)
    || (0x28 ≤ k && k ≤ 0x2D) || (0x30 ≤ k && k ≤ 0x34) || (0x38 ≤ k && k ≤ 0x4D) || (0x50 ≤ k && k ≤ 0x55)

/-- The well-formed commands. -/
def instr : Instr → Bool
  | .powerOn | .resetAsserted | .resetReleased | .linkReady | .scrub | .perCycleLift | .byteGapTimeout
  | .linkErrorDiscard _ | .transmitNextFrame | .frameStart | .frameSent | .supplyLoss => true
  | .tick flips => flips.all flip
  | .tripInputActive n | .tripInputInactive n | .tripQualification n => n < 16
  | .kindRefusal tag desk kind => fits 1 tag && desk ≤ 7 && fits 1 kind && !requestKindByte kind
  | .defineStation h n d => hdr h && fits 1 n && defn station d
  | .defineStop h n d => hdr h && fits 1 n && defn stop d
  | .defineLink h n d => hdr h && fits 1 n && defn link d
  | .defineSection h n d => hdr h && fits 1 n && defn sect d
  | .defineZone h n d => hdr h && fits 1 n && defn zone d
  | .defineMerge h n d => hdr h && fits 1 n && defn merge d
  | .defineClass h n d => hdr h && fits 1 n && defn (fits 1) d
  | .startService h | .stopService h | .restart h | .readTime h | .eraseTimetable h | .readTripStore h
  | .readRegulationParameters h | .readGatePlatforms h | .readZones h | .readIncidentsTable h | .readIncidentsSources h
  | .readIncidentsChannels h | .readAnnounceTemplates h | .readAnnouncePlan h | .readAnnounceScheduled h | .reloadRights h
  | .readRights h | .readStatus h | .resync h => hdr h
  | .setParam h code obj v => hdr h && fits 1 code && fitsOpt 1 obj && fitsInt 4 v
  | .serviceOrigin h v | .wearThreshold h v | .assignGrace h v | .regWeight h v | .regGain h v | .earlyBand h v
  | .lateBand h v | .profileStep h v | .approachTemplate h v | .autoClear h v => hdr h && fitsInt 4 v
  | .readLine h kind obj => hdr h && fits 1 kind && fitsOpt 1 obj
  | .setTime h t d => hdr h && fits 4 t && fits 1 d
  | .setTrim h t => hdr h && fitsInt 2 t
  | .adjustTime h o => hdr h && fitsInt 2 o
  | .loadTrip h t => hdr h && trip t
  | .cancelTrip h n | .readTripByNumber h n | .readTripNext h n | .ackIncident h n | .clearIncident h n
  | .readIncidentsOne h n => hdr h && fits 2 n
  | .retimeTrip h n start reps =>
    hdr h && fits 2 n && fits 1 start && fits 1 reps.length && reps.all replacement
  | .arrival h train stop stamp | .departure h train stop stamp => hdr h && fits 2 train && fits 1 stop && fitsOpt 4 stamp
  | .breakerFeedback h x p => hdr h && fits 1 x && enum p
  | .feedMeasure h z vp vt => hdr h && fits 1 z && fits 2 vp && fits 2 vt
  | .proveResult h x r => hdr h && fits 1 x && enum r
  | .detection h k p r => hdr h && fits 1 k && fits 1 p && enum r
  | .trainEnter h train cls p trip => hdr h && fits 2 train && fits 1 cls && fits 1 p && fitsOpt 2 trip
  | .assignTrip h train trip => hdr h && fits 2 train && fits 2 trip
  | .trainLeave h train | .holdTrain h train | .releaseTrain h train => hdr h && fits 2 train
  | .readTrains h train => hdr h && fitsOpt 2 train
  | .setDwell h train d => hdr h && fits 2 train && fits 2 d
  | .dwellExpiry train | .mergeGapExpiry train | .releaseTimeout train => 1 ≤ train && train ≤ 9999
  | .startWindowEnd z train => z < 8 && 1 ≤ train && train ≤ 9999
  | .readRegulationStop h n | .readRegulationMerge h n | .holdPlatform h n | .releasePlatform h n | .readGateZone h n
  | .energise h n | .isolate h n | .isolateOnClear h n | .earth h n | .unearth h n | .proveNow h n | .readSection h n
  | .readAnnounceStation h n => hdr h && fits 1 n
  | .deferredEnergiseStart x | .energiseTimeout x | .isolateTimeout x | .provingTimeout x | .provingIntervalExpiry x
  | .settleWatchExpiry x => x < 24
  | .setTripInput h n f => hdr h && fits 1 n && tripInput f
  | .setDetectionKind h k f => hdr h && fits 1 k && detectionKind f
  | .setEscalation h c f => hdr h && fits 1 c && escalation f
  | .raiseIncident h sev act targets loc => hdr h && enum sev && enum act && mask 24 targets && raiseLocation loc
  | .testDetection h c p => hdr h && fits 1 c && fits 1 p
  | .setTemplate h n d => hdr h && fits 1 n && defn template d
  | .setAnnouncePlan h n d => hdr h && fits 1 n && defn plan d
  | .setScheduled h n f => hdr h && fits 1 n && scheduled f
  | .announce h st t p params r =>
    hdr h && mask 32 st && fits 1 t && enum p && fits 1 params.length && params.all (fits 2) && r.all reminder
  | .cancelAnnounce h st t => hdr h && mask 32 st && fits 1 t
  | .playCompletion st | .notBeforeReached st _ | .queueEntryExpiry st _ => st < 32
  | .setRights h d ps =>
    hdr h && fits 1 d && fits 1 ps.length && ps.all (fun p => fits 1 p.1 && enum p.2)
  | .clearAttention h c => hdr h && mask 16 c

end Sys2Proof.WellFormed
end

