-- ==== Sys2Proof/Tests/Slice0.lean ====
section
/-! SUPPORT. Tests of the model: ill-formed commands that the checks refuse, the manual's worked examples, one or two steps of each family,
and for every statement with hypotheses a concrete state and operands that meet them. -/

namespace Sys2Proof.Tests

-- One test after another: each is checked by the kernel, and many at once take a thread each.
set_option Elab.async false

open Sys2Proof.Machine Sys2Proof.Safety

/-- A request of desk 0, which is FULL in every area (R174). -/
def desk0 : Hdr := { tag := 7, desk := 0, formed := true }

/-- A request of desk 7, which has no level after power-on. -/
def desk7 : Hdr := { tag := 7, desk := 7, formed := true }

/-! ## Well-formed and ill-formed commands (R182) -/

/-- Well-formed commands and, for each check, one that it refuses. -/
theorem test_wellformed :
    ([.readTime desk0, .kindRefusal 0 7 0x0D, .setTrim desk0 (-32768), .defineStation desk0 31 (.fields { area := 15, lead := 1800 }),
      .tick [{ trip := 1, index := 63, kind := .double 63 }]] : List Instr).all WellFormed.instr = true := by decide

theorem test_illformed_header : WellFormed.instr (.readTime { desk0 with desk := 8 }) = false ∧
    WellFormed.instr (.readTime { desk0 with tag := 256 }) = false := by decide

theorem test_illformed_numbers :
    ([.cancelTrip desk0 65536, .defineClass desk0 0 (.fields 256), .setTime desk0 4294967296 0, .setTrim desk0 32768,
      .adjustTime desk0 (-32769), .setParam desk0 0 (some 256) 0, .arrival desk0 1 0 (some 4294967296),
      .trainEnter desk0 1 0 0 (some 65536), .feedMeasure desk0 0 65536 0] : List Instr).any WellFormed.instr = false := by decide

theorem test_illformed_fields :
    ([.defineStation desk0 0 (.fields { area := 256, lead := 0 }),
      .defineStop desk0 0 (.fields { station := 0, direction := .outside 256, sect := 0, minDwell := 0, maxDwell := 0, headway := 300,
                                     profile := 0, nextLink := none }),
      .defineLink desk0 0 (.fields { fromStop := 0, toStop := 1, sect := 0, run0 := 50, run1 := 50, run2 := 50, run3 := 65536 }),
      .defineSection desk0 0 (.fields { zone := 0, area := 0, deadTime := 100, cycleTime := 300, settleTime := 0, energiseTimeout := 10,
                                        isolateTimeout := 10, provingInterval := 0, provingDuration := 50, provingTimeout := 65536 }),
      .defineZone desk0 0 (.fields { area := 0, normalCap := 0, tieCap := 0, vtrip := 0, ht := 0, hc := 0, vdead := 0, compareOnly := 256,
                                     startWindow := 50, releaseTimeout := 50, starvation := 1 }),
      .defineMerge desk0 0 (.fields { stop := 256, linkA := 0, linkB := 1, separation := 0 }),
      .setTemplate desk0 0 (.fields { length := 65536, params := 0 })] : List Instr).any WellFormed.instr = false := by decide

theorem test_illformed_sets :
    ([.raiseIncident desk0 (.val .major) (.val .hold) [1, 1] (.stop 0), .raiseIncident desk0 (.val .major) (.val .hold) [24] (.stop 0),
      .announce desk0 [32] 0 (.val .routine) [] none, .cancelAnnounce desk0 [3, 2] 0, .clearAttention desk0 [16],
      .setTripInput desk0 0 { qualTime := 256, mode := .val .latched, targets := [], action := .val .none, severity := .val .minor },
      .setEscalation desk0 0 { kind := 0, filter := .num 256, period := 0, severity := .val .minor, action := .val .none,
                               mode := .val .latched }] : List Instr).any WellFormed.instr = false := by decide

theorem test_illformed_entries :
    ([.loadTrip desk0 { number := 65536, dayMask := [], next := none, entries := [] },
      .loadTrip desk0 { number := 1, dayMask := [8], next := none, entries := [] },
      .loadTrip desk0 { number := 1, dayMask := [], next := none,
                        entries := [{ stop := 0, sa := some 4294967296, sd := none, dmin := 0, dmax := 0, profile := 0 }] },
      .retimeTrip desk0 1 0 [{ stop := 256, sa := none, sd := none, dmin := 0, dmax := 0 }],
        .tick [{ trip := 1, index := 64, kind := .single }],
      .tick [{ trip := 1, index := 0, kind := .double 64 }]] : List Instr).any WellFormed.instr = false := by decide

theorem test_illformed_announcing :
    ([.announce desk0 [0] 0 (.val .routine) [65536] none,
      .announce desk0 [0] 0 (.val .routine) [] (some { template := 0, interval := 65536, count := .untilClosed }),
      .setAnnouncePlan desk0 0 (.fields { source := .outside 256, number := .any, minSeverity := .val .minor, opening := 0, reminder := none,
                                          interval := 0, resumed := none }),
      .setScheduled desk0 0 { enabled := 256, dayMask := [], hour := .any, minute := .any, second := .any, mode := .val .once, stations := [],
                              template := 0, priority := .val .routine },
      .setRights desk0 0 [(256, .val .full)],
      .setDetectionKind desk0 0 { handling := .outside 256, severity := .val .minor, action := .val .none, mode := .val .latched,
                                  scope := .val .station }] : List Instr).any WellFormed.instr = false := by decide

theorem test_illformed_events :
    ([.tripInputActive 16, .tripQualification 16, .kindRefusal 0 8 0x0D, .kindRefusal 0 0 0x13, .dwellExpiry 0, .startWindowEnd 8 1,
      .energiseTimeout 24, .playCompletion 32] : List Instr).any WellFormed.instr = false := by decide

/-- The table gives no row any bits, so no word spells a command. -/
theorem test_no_word_is_a_command : decodeTableWord 8 0 = none ∧ State.reset.withFetchWord 8 0 = State.reset := by decide

/-! ## The manual's worked examples -/

/-- The part with its link ready, in SETUP with nothing defined. -/
def ready : State := { State.reset with link := { State.reset.link with ready := true, slot := none } }

/-- The state after a command; a command of the part always answers one. -/
def after (c : Instr) (s : State) : State :=
  match exec c s with
  | .next t => t
  | _ => s

/-- The state after a step; a step always answers one. -/
def afterStep (s : State) : State :=
  match step s with
  | .next t => t
  | _ => s

/-- 02 section 2.10: the clock before the ADJUST_TIME. -/
def clockCase : State :=
  { ready with clock := { ready.clock with
      state := .running, runningCount := 5000097, timeOfDay := 107995, dayOfWeek := 2, serviceDay := 1 } }

/-- What a row of 02 section 2.10 shows: rc, ltod, day, svc, rem, sdd. -/
def clockRow (s : State) : Nat × Nat × Nat × Nat × Int × Nat :=
  (s.clock.runningCount.toNat, s.clock.timeOfDay, s.clock.dayOfWeek, s.clock.serviceTime, s.clock.slew, s.clock.serviceDay)

/-- 02 section 2.10, the slew: the rows at 5,000,098 and, from the row at 5,000,099, at 5,000,100. -/
theorem test_clock_slew :
    clockRow (after (.tick []) (after (.adjustTime desk0 12) clockCase)) = (5000098, 107996, 2, 863996, 12, 1) ∧
      clockRow (after (.tick []) { clockCase with clock := { clockCase.clock with
        runningCount := 5000099, timeOfDay := 107997, slew := 12 } }) = (5000100, 107999, 2, 863999, 11, 1) := by decide +kernel

/-- 02 section 2.10, the origin: the tick to 5,000,101 makes the rollover, and with it a trip that is DONE is PLANNED again. -/
theorem test_clock_rollover :
    clockRow (after (.tick []) { clockCase with clock := { clockCase.clock with
      runningCount := 5000100, timeOfDay := 107999, slew := 11 } }) = (5000101, 108000, 2, 0, 11, 2) := by decide +kernel

/-- 02 section 2.10, the step: −300 at 5,000,150. -/
theorem test_clock_step :
    clockRow (after (.adjustTime desk0 (-300)) { clockCase with clock := { clockCase.clock with
      runningCount := 5000150, timeOfDay := 108049, slew := 11, serviceDay := 2 } }) = (5000150, 107749, 2, 863749, 0,
        1) := by decide +kernel

/-- 05 section 5.11: the inputs of the regulation of train 112 at stop point 14. -/
def lateTrain : RegInput :=
  { train := 112, arrSvc := some 144420, arrCount := 144420, damaged := false, incident := false, restrict := false,
    stop := { station := 0, direction := .up, sect := 0, minDwell := 0, maxDwell := 0, headway := 300, profile := 0, nextLink := none },
    bounds := { sa := some 144000, sd := some 144300, dmin := 200, dmax := 900, profile := 2 },
    memory := { last := some 143650, sprev := some 143400, train := some 97 },
    params := { weight := 8, gain := 12, early := 50, late := 30, step := 150 } }

/-- 05 section 5.11, the whole table. -/
theorem test_regulation_late_train : regulate lateTrain =
    { train := 112, arrCount := 144420, dp := 300, lateness := some 420, hp := some 900, ha := some 1070, error := some (-170), weight := 8,
      c := -295, c1 := -221, c2 := -191, dwell := 200, clamp := .low, residual := 320, shift := 2, profile := 0 } := by decide +kernel

/-- 05 section 5.11, the same arrival under a major incident. -/
theorem test_regulation_major_incident : regulate { lateTrain with incident := true } =
    { train := 112, arrCount := 144420, dp := 300, lateness := some 420, hp := some 900, ha := some 1070, error := some (-170), weight := 0,
      c := -170, c1 := -127, c2 := -97, dwell := 203, clamp := .unclamped, residual := 323, shift := 2, profile := 0 } := by decide +kernel

/-- 05 section 5.12: stages 5 to 7 of a small error, with the early band 50 and with 10. -/
theorem test_regulation_dead_band : blend 8 (some (-40)) (some 20) = 30 ∧ applyGain 12 30 = 22 ∧ deadBand 50 30 22 = 0 ∧
    deadBand 10 30 22 = 12 ∧ profileOf 2 150 560 false = 0 := by decide +kernel

/-- The check value of the CRC that R182 names, over the digits 1 to 9. -/
theorem test_crc : crc16 ([0x31, 0x32, 0x33, 0x34, 0x35, 0x36, 0x37, 0x38, 0x39] : List Byte) = 0x29B1 := by decide +kernel

/-- 07 section 7.10: zone 2 and the six FEED_MEASUREs of the table. -/
def zoneTwo : Zone :=
  { area := 0, normalCap := 12, tieCap := 6, vtrip := 600, ht := 50, hc := 30, vdead := 200, compareOnly := false, startWindow := 300,
    releaseTimeout := 200, starvation := 2 }

theorem test_feed_states : nextFeed zoneTwo .normal 750 740 = .normal ∧ nextFeed zoneTwo .normal 580 720 = .tieFed ∧
    nextFeed zoneTwo .tieFed 630 720 = .tieFed ∧ nextFeed zoneTwo .tieFed 150 180 = .unfed ∧ nextFeed zoneTwo .unfed 190 260 = .tieFed ∧
    nextFeed zoneTwo .tieFed 700 720 = .normal ∧
      nextFeed { zoneTwo with compareOnly := true } .tieFed 700 720 = .tieFed := by decide +kernel

/-- 06 section 6.11: the requests of trains 21 and 23 at 1,000,300, and 24 at 1,000,320. -/
def req (train stop units skipped : Nat) : Request := { train := train, stop := stop, units := units, time := 1000100, skipped := skipped }

theorem test_start_selection :
    Arbiter.choose 2 { capacity := 12, inUse := 9, lastStop := some 20, starts := [req 21 20 6 0, req 22 21 3 0], grants := [] } =
        some (req 22 21 3 0) ∧
      Arbiter.choose 2 { capacity := 12, inUse := 9, lastStop := some 21, starts := [req 21 20 6 1, req 23 20 2 0], grants := [] } =
        some (req 23 20 2 0) ∧
      Arbiter.choose 2 { capacity := 12, inUse := 11, lastStop := some 20, starts := [req 21 20 6 2, req 24 22 1 0], grants := [] } = none ∧
      Arbiter.choose 2 { capacity := 12, inUse := 5, lastStop := some 20, starts := [req 21 20 6 2, req 24 22 1 0], grants := [] } =
        some (req 21 20 6 2) := by decide +kernel

/-- 06 section 6.11, the same-platform rule: 25 at stop point 22 goes before 24 at the last-granted 20. -/
theorem test_same_platform : Arbiter.choose 2
    { capacity := 12, inUse := 11, lastStop := some 20, starts := [req 24 20 1 0, req 25 22 1 0], grants := [] } = some (req 25 22 1 0) ∧
    passOver 2 (req 25 22 1 0) [req 24 20 1 0, req 25 22 1 0] = [req 24 20 1 1] := by decide +kernel

/-- The bytes of a frame after its sync byte (R182): the length of the payload, kind, tag, desk, payload, check. -/
def frameOf (kind tag desk : Nat) (payload : List Byte) : List Byte :=
  let body := itemBytes [u16 payload.length, u8 kind, u8 tag, u8 desk] ++ payload
  body ++ itemBytes [u16 (crc16 body).toNat]

/-- R182 to R184: a READ_TIME frame (R190), one with a byte of its check wrong, one of desk 8, one of a kind that is no request's, a
READ_TIME with a byte too many, and one whose length reads 3,104 (11 section 11.10). -/
theorem test_frames :
    commandOf (frameOf 0x13 1 0 []) = some (.readTime { tag := 1, desk := 0, formed := true }) ∧
      commandOf ((frameOf 0x13 1 0 []).dropLast ++ [0#8]) = some (.linkErrorDiscard .badCheck) ∧
      commandOf (frameOf 0x13 1 8 []) = some (.linkErrorDiscard .deskAbove7) ∧
      commandOf (frameOf 0x0D 1 0 []) = some (.kindRefusal 1 0 0x0D) ∧
      commandOf (frameOf 0x13 1 0 [0#8]) = some (.readTime { tag := 1, desk := 0, formed := false }) ∧
      commandOf [0x0C#8, 0x20#8] = some (.linkErrorDiscard .excessLength) ∧ commandOf [0x00#8] = none := by decide +kernel

/-- A byte received, its stop bit high. -/
def rxByte (v : Byte) : RxByte := { value := v, low := false }

/-- Bytes on RXD, the stop bit of the next just ended. -/
def onLine (l : List Byte) : List RxItem := l.map (fun v => .byte 0 (rxByte v))

/-- 11 section 11.10, frame 2: a SET_DWELL of tag 2 with a wrong check and 0x5A 0x0C 0x20 within its payload. -/
def noisyFrame : List Byte := (frameOf 0x2C 2 0 [0x5A#8, 0x0C#8, 0x20#8, 0#8]).dropLast ++ [0#8]

/-- 11 section 11.10: at the last byte of frame 2 the check is wrong; at the discard the bytes received come to the hunting receiver once
more, and of the false frame that begins at the 0x5A inside, the length reads 3,104. -/
theorem test_noisy_frame :
    let s : State := { ready with
      rxd := onLine (noisyFrame.drop 10)
      link := { ready.link with receiver := .inFrame, frame := (noisyFrame.take 10).map rxByte } }
    let whole : State := { s with
      rxd := [], pending := [.linkErrorDiscard .badCheck], link := { s.link with frame := noisyFrame.map rxByte } }
    noisyFrame.length = 11 ∧ afterStep s = whole ∧
      afterStep whole = { discarded s with rxd := onLine noisyFrame } ∧
      ((noisyFrame.drop 5).take 3 = [0x5A#8, 0x0C#8, 0x20#8] ∧ foundIn ([0x0C#8,
        0x20#8].map rxByte) = some (.linkErrorDiscard .excessLength)) := by
  decide +kernel

/-- R183: a gap within a frame discards it; the receiver hunts through the byte received, and the mark of the gap ends a frame begun in it. -/
theorem test_gap : afterStep { ready with link := { ready.link with receiver := .inFrame, frame := [rxByte 0x5A#8], gapCycles := 50001 } } =
      { discarded ready with rxd := onLine [0x5A#8] ++ [.gap] } ∧
    afterStep { ready with rxd := [.gap], link := { ready.link with receiver := .inFrame } } =
      { ready with pending := [.byteGapTimeout], link := { ready.link with receiver := .inFrame } } := by decide +kernel

/-! ## A line in service -/

/-- The fields of every section below. -/
def sectA : SectionFields :=
  { zone := 0, area := 0, deadTime := 100, cycleTime := 300, settleTime := 600, energiseTimeout := 10, isolateTimeout := 600,
    provingInterval := 600, provingDuration := 50, provingTimeout := 50 }

/-- The fields of every stop point below, in section 0. -/
def stopA : Stop :=
  { station := 0, direction := .up, sect := 0, minDwell := 0, maxDwell := 6000, headway := 300, profile := 3, nextLink := some 0 }

/-- A zone's fields. -/
def zoneA : Zone := { zoneTwo with releaseTimeout := 50 }

/-- Two stations, three stop points, two links that meet at stop point 1, twelve sections of one zone, a merge and a class. -/
def lineA : Lds :=
  { lineState := .service, stations := [(0, { area := 0, lead := 0 }), (31, { area := 15, lead := 1800 })],
    stops := [(0, stopA), (1, { stopA with nextLink := none }), (63, { stopA with nextLink := some 95 })],
    links := [(0, { fromStop := 0, toStop := 1, sect := 1, run0 := 50, run1 := 50, run2 := 50, run3 := 12000 }),
              (95, { fromStop := 63, toStop := 1, sect := 1, run0 := 50, run1 := 50, run2 := 50, run3 := 12000 })],
    sections := [0, 1, 2, 3, 4, 5, 6, 7, 8, 9, 10, 23].map (fun n => (n, sectA)), zones := [(0, zoneA)],
    merges := [(0, { stop := 1, linkA := 0, linkB := 95, separation := 0 })], classes := [(0, 63)] }

/-- A section in each state, its timers expiring at 1000. -/
def sectionsA : Table SectRec :=
  [(0, SectRec.init), (1, { SectRec.init with state := .energising, timeout := some 1000 }),
   (2, { SectRec.init with state := .live, settle := some 1000, settleArmed := true, owed := 1, interval := some 1000 }),
   (3, { SectRec.init with state := .proving, timeout := some 1000, pending := some .isolateOnClear }),
   (4, { SectRec.init with state := .isolating, timeout := some 1000 }),
   (5, { SectRec.init with state := .live, pending := some .isolateOnClear, lastEnergiseDone := some 900 }),
   (6, { SectRec.init with pending := some (.energiseDeferred 1000) }), (7, { SectRec.init with pending := some (.energiseDeferred 1001) }),
   (8, { SectRec.init with lastIsolated := some 901 }), (9, { SectRec.init with state := .proving }),
   (10, { SectRec.init with state := .live, settle := some 1000, settleArmed := true, owed := 8 }), (23,
     { SectRec.init with state := .earthed })]

/-- A train at a stop point. -/
def trainA (p : Nat) (st : TrainState) : Train :=
  { cls := 0, state := st, trip := none, loc := .stop p, arrSvc := none, arrCount := 900, dwell := 100, dwellExpiry := 1000,
    causes := if st = .dwelling then [.dwell] else [], grant := none, lateness := none, profile := 3, predicted := none,
    nextLink := some 0, deskHold := false, mergeGap := none }

/-- A train in each state. -/
def trainsA : Table Train :=
  [(1, trainA 0 .dwelling),
   (2, { trainA 63 .released with nextLink := some 95, grant := some { zone := 0, units := 2, givenAt := 950, startedAt := none } }),
   (3, { trainA 0 .running with loc := .link 0, trip := some { trip := 2, index := 0 } }),
   (4, { trainA 0 .held with deskHold := true, causes := [.mergeGap], mergeGap := some 1000 }),
   (9999, { trainA 1 .held with causes := [.noRoute], nextLink := none })]

/-- A stored entry. -/
def entryA (stop : Nat) (sa sd : Option Nat) (b : BitCondition) : Entry :=
  { coded := { stop := stop, sa := sa, sd := sd, dmin := 0, dmax := 6000, profile := 3 }, bits := b, status := .pending }

/-- A trip from stop point 0 to 1 that leaves at `sd`. -/
def tripA (n sd : Nat) (r : RunState) : Trip :=
  { number := n, dayMask := [0], entries := [entryA 0 none (some sd) .clean, entryA 1 (some (sd + 100)) none .clean], next := none, run := r,
    damaged := false, train := none, rolled := false }

/-- An incident of desk `d` at stop point 0. -/
def incidentA (d : Nat) (st : IncidentState) (m : Mode) (present : Bool) : Incident :=
  { source := { kind := .desk, number := d }, loc := .stop 0, severity := .minor, action := .none, targets := [0], mode := m,
    condition := present, state := st, ack := none, raised := 900, recurrences := 255 }

/-- An announcement of desk 0. -/
def entryQ (seq : Count) (notBefore : Count) : QueueEntry :=
  { template := 0, priority := .routine, params := [], origin := .desk, desk := some 0, series := some 0, incident := none, train := none,
    notBefore := some notBefore, expiry := some notBefore, reminder := none, seq := seq, notBeforeTaken := false }

/-- A trip input that has qualified and one that qualifies now. -/
def inputsA : Vector TripInput 16 :=
  vmod (vmod Inm.init.inputs 0 (fun t => { t with qual := .active })) 15 (fun t => { t with qual := .qualifying, qualLimit := 100000 })

/-- Channel 0 is off, 1 counts to 2, and 15 is at its period with kind 15. -/
def channelsA : Vector Channel 16 :=
  vmod (vmod Inm.init.channels 1 (fun c => { c with period := 2 })) 15 (fun c => { c with kind := 15, period := 1 })

/-- A line in service at running count 1000, with a train, a section and an incident in each state. -/
def busy : State :=
  { ready with
    clock := { ready.clock with state := .running, runningCount := 1000, ticked := true, timeOfDay := 108000, serviceDay := 0 }
    lds := lineA
    store := { ready.store with
      trips := [tripA 1 100 .planned, tripA 2 200 .running, tripA 3 300 .cancelled, tripA 4 400 .done, tripA 65535 500 .planned]
      scrub := some { trip := 65535, index := 1 } }
    trt := { ready.trt with
      trains := trainsA, occupancy := [0, 1, 2, 3, 4, 5, 6, 7, 8, 9, 10, 23].map (fun n => (n,
        if n = 0 then 4 else if n = 1 then 1 else 0)) }
    reg := { ready.reg with
      headways := [0, 1, 63].map (fun p => (p, { last := none, sprev := none, train := none }))
      merges := [(0, { stop := 1, linkA := 0, linkB := 95, separation := 0, committed := none })] }
    gate := { ready.gate with
      platformHolds := [63]
      arbiters := [(0, { capacity := 12, inUse := 4, lastStop := none, starts := [],
                         grants := [{ train := 2, stop := 63, units := 2, givenAt := 950, startedAt := none, expiry := 1000 },
                                    { train := 3, stop := 0, units := 2, givenAt := 600, startedAt := some 700, expiry := 1000 }] })] }
    trc := { sections := sectionsA, zones := [(0, { feed := .normal, capacity := 12, measured := none })] }
    inm := { ready.inm with
      effective := sectionsA.map (fun p => (p.1, .none)), inputs := inputsA, channels := channelsA
      incidents := [(1, incidentA 0 .active .latched false), (2, incidentA 1 .acked .latched false), (3,
        incidentA 2 .lifted .latched false),
                    (4, incidentA 3 .active .perCycle false), (65535, incidentA 4 .active .latched true),
                    (65536, { incidentA 0 .active .perCycle true with source := { kind := .detection, number := 15 } })]
      nextNumber := 5 }
    anc := { ready.anc with
      templates := [(0, { length := 10, params := 0 })]
      channels := [(0, { playing := some { entry := entryQ 1 900, start := 900, ending := 1000, finishing := false },
                         queue := [entryQ 2 1000], nextSeq := 3 }), (31, { playing := none, queue := [entryQ 4 1001], nextSeq := 5 })] } }

/-! ## One or two steps of each family -/

/-- R84: SET_DWELL of 6001 for a train whose bounds are 0 and 6000 orders 6000. -/
theorem test_set_dwell : ((tget (after (.setDwell desk0 1 6001) busy).trt.trains 1).map Train.dwell) = some 6000 ∧
    (after (.setDwell desk0 1 6001) busy).link.outbound = [.dwell 1 0 6000] := by decide +kernel

/-- R66, R102: the DEPARTURE of the released train starts its grant, and its window runs from now. -/
theorem test_departure : ((tget (after (.departure desk0 2 63 none) busy).trt.trains 2).map Train.loc) = some (.link 95) ∧
    ((tget (after (.departure desk0 2 63 none) busy).gate.arbiters 0).bind (fun a => a.grants.head?)).map Grant.expiry = some 1300 := by
  decide +kernel

/-- R63, R53: the ARRIVAL of train 3 at stop point 1 brings it from section 1 into section 0, where it is counted. -/
theorem test_arrival : occupancyOf (after (.arrival desk0 3 1 none) busy) 0 = 5 ∧
    occupancyOf (after (.arrival desk0 3 1 none) busy) 1 = 0 := by decide +kernel

/-- R103: at the release timeout the grant goes and DEPART_CANCEL is queued; the train waits again, with no selection made. -/
theorem test_release_timeout : (after (.releaseTimeout 2) busy).link.outbound = [.departCancel 2 63] ∧
    ((tget (after (.releaseTimeout 2) busy).gate.arbiters 0).map Arbiter.inUse) = some 2 := by decide +kernel

/-- R114: ENERGISE of section 0 closes its breaker; of section 8, isolated at 901 with 100 ds of dead time, it is deferred to 1001. -/
theorem test_energise : (after (.energise desk0 0) busy).link.outbound = [.breaker 0 .close] ∧
    ((tget (after (.energise desk0 8) busy).trc.sections 8).bind SectRec.pending) = some (.energiseDeferred 1001) := by decide +kernel

/-- R125: at its settle watch section 2, LIVE and clear with a proving owed, is proved. -/
theorem test_settle_watch : (after (.settleWatchExpiry 2) busy).link.outbound = [.prove 2 50] ∧
    ((tget (after (.settleWatchExpiry 2) busy).trc.sections 2).map SectRec.state) = some .proving := by decide +kernel

/-- R121, R122, R140: an uncommanded open of section 2 makes it DEAD and raises SECTION_FAULT, MAJOR, with HOLD on the section. -/
theorem test_uncommanded_open : effectiveOf (after (.breakerFeedback desk0 2 (.val .opened)) busy) 2 = .hold ∧
    (after (.breakerFeedback desk0 2 (.val .opened)) busy).atu.pending.contains .majorIncident = true := by decide +kernel

/-- R151: an EMERGENCY incident raises LINE STOP; the same without it does not. -/
theorem test_line_stop : (after (.raiseIncident desk0 (.val .emergency) (.val .hold) [0] (.sect 23)) busy).inm.lineStop = true ∧
    (after (.raiseIncident desk0 (.val .major) (.val .hold) [0] (.sect 23)) busy).inm.lineStop = false := by decide +kernel

/-- R137: trip input 15 qualifies: its incident is raised with the settings captured, EMERGENCY and DE_ENERGISE (R136). -/
theorem test_trip_qualification :
    ((tget (after (.tripQualification 15) busy).inm.incidents 5).map (fun i => (i.source.kind, i.severity, i.action, i.condition))) =
      some (.trip, .emergency, .deEnergise, true) := by decide +kernel

/-- R162, R161: at the completion of a play the next eligible entry starts; an expired one does not. -/
theorem test_play_completion :
    ((tget (after (.playCompletion 0) busy).anc.channels 0).map (fun c => (c.playing.isSome, c.queue.length))) = some (false, 1) := by
  decide +kernel

/-- R39: ERASE_TIMETABLE with a trip RUNNING is refused with STATE. -/
theorem test_erase_refused : (after (.eraseTimetable desk0) busy).link.outstanding.map Outstanding.reply =
    [.refuse .state { Detail.empty with count := some 1 }] := by decide +kernel

/-- R47: the scrub of the last entry of the store goes on to the first. -/
theorem test_scrub : (after .scrub { busy with scrubDue := true }).store.scrub = some { trip := 1, index := 0 } := by decide +kernel

/-- R45, R140: a scrub that finds two bits in error damages the trip and raises INTEGRITY. -/
theorem test_scrub_double :
    (findTrip (after .scrub { busy with
        scrubDue := true
        store := { busy.store with trips := [{ tripA 65535 500 .planned with
          entries := [entryA 0 none (some 500) .clean,
            entryA 1 (some 600) none (.double 63)] }] } }) 65535).map Trip.damaged = some true := by
  decide +kernel

/-- R175: after SET_RIGHTS and RELOAD_RIGHTS desk 7 is FULL in area 15; before the reload it is not. -/
theorem test_rights :
    levelIn (after (.reloadRights desk0) (after (.setRights desk0 7 [(15, .val .full)]) busy)).drt.inForce 7 15 = .full ∧
      levelIn (after (.setRights desk0 7 [(15, .val .full)]) busy).drt.inForce 7 15 = .none := by decide +kernel

/-- R177: a request of desk 7 is refused with RIGHTS, which is reported. -/
theorem test_rights_refusal : (after (.energise desk7 0) busy).atu.pending.contains .rightsRefusal = true ∧
    (after (.energise desk7 0) busy).trc = busy.trc := by decide +kernel

/-- R187: with 96 orders waiting an order is discarded and LINK_OVERRUN is pending. -/
theorem test_overrun : (after (.energise desk0 0) { busy with link := { busy.link with outbound := List.replicate 96 (.cut 0) } }).atu.pending.contains
    .linkOverrun = true := by decide +kernel

/-! ## Witnesses: for every statement with hypotheses, states and operands that meet them -/

/-- What a request is received under, as one value. -/
theorem taken {s : State} {h : Hdr} (q : (s.powered && !s.resetPin && s.link.ready && decide (h.desk ≤ 7) &&
    decide (s.link.outstanding.length < 4) && h.formed) = true) : Received s h := by
  simpa [Received, and_assoc] using q

theorem lineWide_of {s : State} (h : s.drt = Drt.init) : LineWide s desk0 := by
  unfold LineWide; rw [h]; decide +kernel

theorem inArea_of {s : State} {h : Hdr} {l : Level} {a : Nat} (hl : Level.code l ≤ Level.code (levelIn s.drt.inForce h.desk a)) :
    InArea s h l (some a) := .inl ⟨a, rfl, hl⟩

theorem inArea0 {s : State} (h : s.drt = Drt.init) (l : Level) : InArea s desk0 l (some 0) := by
  refine inArea_of ?_; rw [h]; cases l <;> decide +kernel

theorem busy_received : Received busy desk0 := taken rfl
theorem busy_lineWide : LineWide busy desk0 := lineWide_of rfl
theorem ready_received : Received ready desk0 := taken rfl
theorem ready_lineWide : LineWide ready desk0 := lineWide_of rfl

/-- Desk 8, a fifth request, and a payload without its form. -/
theorem witness_UnreadableFrames :
    let full : State := { ready with link := { ready.link with
      outstanding := List.replicate 4 { tag := 0, reply := .accept [], part := 0 }, errors := 65535 } }
    (header? (.readTime { desk0 with desk := 8 }) = some { desk0 with desk := 8 } ∧ ready.linkUp = true ∧ ready.link.errors ≤ 65535 ∧
      7 < 8) ∧
      (full.linkUp = true ∧ full.link.errors ≤ 65535 ∧ 4 ≤ full.link.outstanding.length) ∧
      (header? (.readTime { desk7 with formed := false }) = some { desk7 with formed := false } ∧ desk7.desk ≤ 7 ∧
        ready.link.outstanding.length < 4) := by decide +kernel

/-- Desk 7, which has no level: SET_TRIM, READ_TIME, an ENERGISE in area 0 and a RAISE_INCIDENT; and SET_PARAM and READ_LINE with an object
number that agrees with the code and kind, and with one that does not. -/
theorem witness_RightsChecked :
    (kindOf? (.setTrim desk7 0) = some .setTrim ∧ Received busy desk7 ∧ presenceAgrees (.setTrim desk7 0) = true ∧
        Lacks busy desk7.desk .full (some 0) (neededBy busy (.setTrim desk7 0))) ∧
      Lacks busy desk7.desk .monitor none (neededBy busy (.readTime desk7)) ∧
      Lacks busy desk7.desk .operate (some 0) (neededBy busy (.energise desk7 0)) ∧
      Lacks busy desk7.desk .operate (some 0) (neededBy busy (.raiseIncident desk7 (.val .major) (.val .hold) [2] (.sect 2))) ∧
      (∀ a, a < 16 → levelIn busy.drt.inForce desk7.desk a = .none) ∧
      (header? (.setParam desk0 0 none 0) = some desk0 ∧ presenceAgrees (.setParam desk0 0 none 0) = false ∧
        presenceAgrees (.setParam desk0 28 (some 0) 1) = true ∧ presenceAgrees (.readLine desk0 7 (some 0)) = false ∧
        presenceAgrees (.readLine desk0 6 (some 0)) = true) :=
  ⟨⟨rfl, taken rfl, rfl, rfl, 0, rfl, by decide, by decide +kernel, fun m h => by omega⟩,
    ⟨rfl, rfl, fun ⟨a, ha, h⟩ => by
      have : ∀ a, a < 16 → ¬ Level.code .monitor ≤ Level.code (levelIn busy.drt.inForce desk7.desk a) := by decide +kernel
      exact this a ha h⟩,
    ⟨rfl, rfl, by decide +kernel⟩, ⟨[], some 0, [some 0], by decide +kernel, nofun, rfl, rfl, by decide +kernel⟩,
    by decide +kernel, by decide +kernel⟩

/-- A definition in SERVICE, a STOP_SERVICE and the reads of what only SERVICE holds in SETUP, and an ENERGISE in SETUP of section 23 with its
zone undefined. -/
theorem witness_LineStateDecides :
    let bare : State := { ready with
      lds := { ready.lds with sections := [(23, sectA)] }, trc := { ready.trc with sections := [(23, SectRec.init)] } }
    (Received busy desk0 ∧ LineWide busy desk0 ∧ AreasInRange busy ∧ busy.lds.lineState = .service ∧ setupOnly (.startService desk0) = true) ∧
      (Received ready desk0 ∧ LineWide ready desk0 ∧ AreasInRange ready ∧ ready.lds.lineState = .setup ∧
        ([.stopService desk0, .testDetection desk0 0 0, .readRegulationStop desk0 63, .readRegulationMerge desk0 3, .readGateZone desk0 7,
          .readGatePlatforms desk0, .readAnnounceStation desk0 31] : List Instr).all serviceOnly = true) ∧
      (Received bare desk0 ∧ LineWide bare desk0 ∧ AreasInRange bare ∧ bare.lds.lineState = .setup ∧ tractionOf (.energise desk0 23) = some 23 ∧
        tget bare.lds.sections 23 = some sectA ∧ tget bare.trc.sections 23 = some SectRec.init ∧ tget bare.lds.zones sectA.zone = none) :=
  ⟨⟨busy_received, busy_lineWide, by unfold AreasInRange; decide +kernel, rfl, rfl⟩,
    ⟨ready_received, ready_lineWide, by unfold AreasInRange; decide +kernel, rfl, rfl⟩,
    taken rfl, lineWide_of rfl, by unfold AreasInRange; decide +kernel, rfl, rfl, by decide +kernel, by decide +kernel,
    by decide +kernel⟩

/-- Power and RESET: powered and not, RESET asserted and not; RESTART by a desk that is FULL everywhere. -/
theorem witness_PowerAndReset :
    ready.powered = true ∧ ({ ready with resetPin := true } : State).resetPin = true ∧
      ({ ready with powered := false } : State).powered = false ∧
      ready.resetPin = false ∧ Received ready desk0 ∧ LineWide ready desk0 := ⟨rfl, rfl, rfl, rfl, ready_received, ready_lineWide⟩

theorem witness_DescriptionAfterResets :
    (Instr.resetAsserted = .resetAsserted ∧ ready.powered = true) ∧ Received busy desk0 ∧ LineWide busy desk0 :=
  ⟨⟨rfl, rfl⟩, busy_received, busy_lineWide⟩

theorem witness_ClockAfterResets :
    busy.powered = true ∧ ({ busy with resetPin := true } : State).resetPin = true ∧ Received busy desk0 ∧ LineWide busy desk0 :=
  ⟨rfl, rfl, busy_received, busy_lineWide⟩

/-- A link that is up, in a frame of the bytes given, with a byte on RXD. -/
def receiving (frame : List Byte) (b : Byte) : State :=
  { ready with rxd := onLine [b], link := { ready.link with receiver := .inFrame, frame := frame.map rxByte } }

/-- The wait over with the start-up frame in its slot; a link that is up, hunting and in a frame; kind 0x0D of desk 7; a sync
byte while it hunts, the mark of a gap, a byte with a low stop bit, and in a frame a first byte,
  the last byte of a READ_TIME and a length of 3,104. -/
theorem witness_LinkEvents :
    (State.reset.link.errors ≤ 65535 ∧ State.reset.powered = true ∧ State.reset.resetPin = false ∧ State.reset.link.ready = false ∧
        State.reset.link.slot = some { highest := some .clockUnset, pending := [.clockUnset] }) ∧
      (ready.linkUp = true ∧ ready.link.receiver = .hunting ∧ LinkErrorCause.badCheck ≠ .noBuffer ∧ isRequestKind 0x0D = false ∧
        ready.link.outstanding.length < 4) ∧
      (let s : State := { ready with rxd := onLine [0x5A#8] }
       s.linkUp = true ∧ s.pending = [] ∧ firstDue s = none ∧ s.link.receiver = .hunting ∧ s.rxd = .byte 0 (rxByte 0x5A#8) :: []) ∧
      (∀ r ∈ [Receiver.hunting, .inFrame], let s : State := { ready with rxd := [.gap], link := { ready.link with receiver := r } }
       s.linkUp = true ∧ s.pending = [] ∧ firstDue s = none ∧ s.rxd = .gap :: []) ∧
      (let s : State := { receiving [0#8] 0#8 with rxd := [.byte 0 { value := 0#8, low := true }] }
       s.linkUp = true ∧ firstDue s = none ∧ s.link.receiver = .inFrame ∧ (∀ y ∈ s.link.frame, y.low = false) ∧
         judgeFrame (s.link.frame.map RxByte.value) = .incomplete) ∧
      (let s := receiving [] 0#8
       s.linkUp = true ∧ s.pending = [] ∧ firstDue s = none ∧ s.link.receiver = .inFrame ∧
         judgeFrame (s.link.frame.map RxByte.value) = .incomplete ∧ judgeFrame [0#8] = .incomplete) ∧
      (let l := frameOf 0x13 1 0 []
       let s := receiving l.dropLast (l.getLast?.getD 0#8)
       firstDue s = none ∧ judgeFrame (s.link.frame.map RxByte.value) = .incomplete ∧ judgeFrame l = .wellFormed 0x13 1 0 []) ∧
      (let s := receiving [0x0C#8] 0x20#8
       firstDue s = none ∧ judgeFrame (s.link.frame.map RxByte.value) = .incomplete ∧
         judgeFrame [0x0C#8, 0x20#8] = .discard .excessLength) := by decide +kernel

/-- A request outstanding, and the part with it, with a frame in the slot, and with an order waiting. -/
def waitingReply : Outstanding := { tag := 0, reply := .accept [], part := 0 }
def slotFrame : AttentionFrame := { highest := none, pending := [] }
def withReply (f : Option TxFrame) : State := { ready with link := { ready.link with outstanding := [waitingReply], sending := f } }
def withSlot : State := { ready with link := { ready.link with slot := some slotFrame } }
def withOrder : State := { ready with link := { ready.link with outbound := [.cut 0] } }

/-- The transmitter: a reply waiting, the slot, an order, nothing; a part of a reply sent, and an order sent. -/
theorem witness_Transmits :
    (((withReply none).linkUp = true ∧ (withReply none).link.sending = none ∧ (withReply none).link.outstanding = waitingReply :: []) ∧
      (withSlot.linkUp = true ∧ withSlot.link.sending = none ∧ withSlot.link.outstanding = [] ∧ withSlot.link.slot = some slotFrame) ∧
      (withOrder.linkUp = true ∧ withOrder.link.sending = none ∧ withOrder.link.outstanding = [] ∧ withOrder.link.slot = none ∧
        withOrder.link.outbound = .cut 0 :: []) ∧
      (ready.linkUp = true ∧ ready.link.sending = none ∧ ready.link.outstanding = [] ∧ ready.link.slot = none ∧ ready.link.outbound = []) ∧
      ((withReply (some (.reply 0 (.accept []) 0))).link.sending = some (.reply 0 (.accept []) 0) ∧
        (withReply (some (.reply 0 (.accept []) 0))).link.outstanding = waitingReply :: [])) ∧
      ((withReply (some (.order (.cut 0)))).link.sending = some (.order (.cut 0)) ∧
        ∀ tag r k, TxFrame.order (.cut 0) ≠ .reply tag r k) :=
  ⟨by decide +kernel, rfl, fun _ _ _ h => by cases h⟩

/-- An edge that is a tick and one that is not; a tick with a rollover, at a whole second and into a new one, that the first scheduled entry
fires on and the last does not; and UNSET. -/
theorem witness_Ticks :
    let edge (n : Nat) : State := { ready with clock := { ready.clock with cycleCount := n } }
    let fires : Scheduled := { enabled := true, dayMask := [0], hour := .num 3, minute := .any, second := .num 0, mode := .once, stations := [0, 31],
                               template := 0, priority := .routine, fired := false }
    let s : State := { busy with
      clock := { busy.clock with runningCount := 1009, timeOfDay := 107999, serviceDay := 6 }
      anc := { busy.anc with scheduled := vmod (vmod busy.anc.scheduled 0 (fun _ => fires)) 31 (fun _ => { fires with second := .num 1 }) } }
    (∀ n ∈ [0, 999998, 999999], (edge n).pending = [] ∧ (edge n).powered = true ∧ firstDue (edge n) = none ∧ itemDue (edge n) = false ∧
        (1000000 - (edge n).clock.trim ≤ ((edge n).clock.cycleCount : Int) + 1 ↔ n = 999999)) ∧
      s.powered = true ∧ s.clock.state = .running ∧ (s.clock.runningCount + 1).toNat % 10 = 0 ∧
      (after (.tick []) s).clock.serviceTime < s.clock.serviceTime ∧ (after (.tick []) s).clock.timeOfDay / 10 ≠ s.clock.timeOfDay / 10 ∧
      (s.anc.scheduled[0]? = some fires ∧ fires.stations.Nodup ∧ thas s.anc.templates fires.template = true ∧
        (∀ e ∈ s.anc.scheduled.toList.drop 1, ¬ (e.enabled = true ∧ 0 ∈ e.dayMask ∧ (e.hour = .any ∨ e.hour = .num 3) ∧
          (e.minute = .any ∨ e.minute = .num 0) ∧ (e.second = .any ∨ e.second = .num 0))) ∧
        (∀ c ∈ s.anc.channels, c.2.queue.length < 8)) ∧
      ready.clock.state = .unset := by decide +kernel

/-- Line time 863999 on day 6, and out of range; an offset of 20 and of 21, and one that takes the line time back over midnight. -/
theorem witness_SetsAndAdjustsTime :
    (Received busy desk0 ∧ LineWide busy desk0 ∧ 863999 < 864000 ∧ 6 < 7 ∧ ¬ (864000 < 864000 ∧ 0 < 7)) ∧
      (Received ready desk0 ∧ LineWide ready desk0 ∧ ready.clock.state = .unset) ∧
      (busy.clock.state = .running ∧ (-20 : Int) ≤ 20 ∧ (20 : Int) ≤ 20 ∧ (20 : Int) < 21 ∧ (-21 : Int) < -20 ∧
        (busy.clock.timeOfDay : Int) + -108001 < 0) :=
  ⟨⟨busy_received, busy_lineWide, by decide +kernel, by decide +kernel, by decide +kernel⟩, ⟨ready_received, ready_lineWide, rfl⟩,
    by decide +kernel⟩

theorem witness_SetsTrim : (Received ready desk0 ∧ LineWide ready desk0) ∧ (Received ready desk7 ∧ ¬ LineWide ready desk7) :=
  ⟨⟨ready_received, ready_lineWide⟩, taken rfl, by unfold LineWide; decide⟩

theorem witness_ReadsTime : (Received ready desk0 ∧ Somewhere ready desk0 .monitor) ∧ (Received ready desk7 ∧
  ¬ Somewhere ready desk7 .monitor) :=
  ⟨⟨ready_received, 15, by decide +kernel, by decide +kernel⟩, taken rfl, by
    rintro ⟨a, ha, h⟩
    have : ∀ a, a < 16 → ¬ Level.code .monitor ≤ Level.code (levelIn ready.drt.inForce desk7.desk a) := by decide +kernel
    exact this a ha h⟩

/-- The last number of each kind of object with fields at their bounds, and fields out of range. -/
theorem witness_Defines :
    Received ready desk0 ∧ LineWide ready desk0 ∧ ready.lds.lineState = .setup ∧
      AllIn (stationRanges 31 { area := 15, lead := 1800 }) ∧ FirstOut (stationRanges 0 { area := 16, lead := 0 }) 1 ∧
      AllIn (stopRanges 63
        { station := 31, direction := .val .down, sect := 23, minDwell := 6000, maxDwell := 6000, headway := 300,
          profile := 3, nextLink := some 95 }) ∧
      FirstOut (stopRanges 64
        { station := 0, direction := .val .up, sect := 0, minDwell := 0, maxDwell := 0, headway := 300,
          profile := 0, nextLink := none }) 0 ∧
      AllIn (linkRanges 95 { fromStop := 0, toStop := 63, sect := 23, run0 := 50, run1 := 50, run2 := 50, run3 := 12000 }) ∧
      FirstOut (linkRanges 0 { fromStop := 0, toStop := 0, sect := 0, run0 := 50, run1 := 50, run2 := 50, run3 := 50 }) 2 ∧
      AllIn (mergeRanges 3 { stop := 63, linkA := 0, linkB := 95, separation := 1200 }) ∧
      FirstOut (mergeRanges 3 { stop := 63, linkA := 0, linkB := 95, separation := 1201 }) 4 ∧
      AllIn (classRanges 3 63) ∧ FirstOut (classRanges 3 64) 1 :=
  ⟨ready_received, ready_lineWide, by
    simp only [← Laws.badStation_none, ← Laws.badStation_some, ← Laws.badStop_none, ← Laws.badStop_some, ← Laws.badLink_none,
      ← Laws.badLink_some, ← Laws.badMerge_none, ← Laws.badMerge_some, ← Laws.badClass_none, ← Laws.badClass_some]
    decide +kernel⟩

/-- `busy` put down into SETUP with its trains gone. -/
def quiet : State := { busy with lds := { lineA with lineState := .setup }, trt := { busy.trt with trains := [] } }

theorem quiet_received : Received quiet desk0 := taken rfl
theorem quiet_lineWide : LineWide quiet desk0 := lineWide_of rfl

/-- A zone's fields at their upper bounds, but for its start window. -/
def zoneMax : ZoneFields :=
  { area := 15, normalCap := 255, tieCap := 255, vtrip := 2000, ht := 2000, hc := 2000, vdead := 2000, compareOnly := 1, startWindow := 50,
    releaseTimeout := 1200, starvation := 15 }

/-- A first definition of section 23 and of zone 7, a later one of a DEAD section, of a LIVE one and of zone 0, and removals; a section not
DEAD and one with a deferral, the first numbers out of range, and fields one past a bound. -/
theorem witness_DefinesSectionOrZone :
    (Received ready desk0 ∧ LineWide ready desk0 ∧ (ready.lds.lineState = .setup ∧ AllIn (sectionRanges 23 sectA) ∧
        tget ready.lds.sections 23 = none ∧ tget ready.trc.sections 23 = none ∧ AllIn (zoneRanges 7 zoneMax) ∧ tget ready.lds.zones 7 = none ∧
        tget ready.trc.zones 7 = none) ∧ (∀ r, tget ready.trc.sections 23 = some r → r.state = .dead ∧ r.pending = none)) ∧
      (Received quiet desk0 ∧ LineWide quiet desk0 ∧ quiet.lds.lineState = .setup ∧ AllIn (sectionRanges 0 sectA) ∧ AllIn (zoneRanges 0 zoneMax) ∧
        tget quiet.lds.sections 0 = some sectA ∧ tget quiet.trc.sections 0 = some SectRec.init ∧
        tget quiet.trc.sections 23 = some { SectRec.init with state := .earthed } ∧ tget quiet.lds.zones 0 = some zoneA ∧
        tget quiet.trc.zones 0 = some { feed := .normal, capacity := 12, measured := none } ∧ thas quiet.lds.zones 0 = true ∧
        (thas quiet.lds.sections 23 = true ∧ thas quiet.lds.sections 6 = true ∧
          (tget quiet.trc.sections 6).bind SectRec.pending = some (.energiseDeferred 1000)) ∧
        (FirstOut (sectionRanges 24 sectA) 0 ∧ FirstOut (sectionRanges 0 { sectA with zone := 8 }) 1 ∧
          FirstOut (sectionRanges 0 { sectA with deadTime := 99 }) 3 ∧
          FirstOut (zoneRanges 8 zoneMax) 0 ∧ FirstOut (zoneRanges 0 { zoneMax with area := 16 }) 1 ∧
            FirstOut (zoneRanges 7 { zoneMax with compareOnly := 2 }) 8)) :=
  ⟨⟨ready_received, ready_lineWide, by
      simp only [← Laws.badSection_none, ← Laws.badZone_none]
      decide +kernel, fun r h => by
      have hn : tget ready.trc.sections 23 = none := by decide +kernel
      rw [hn] at h; cases h⟩, ⟨quiet_received, quiet_lineWide, by
      simp only [← Laws.badSection_none, ← Laws.badSection_some, ← Laws.badZone_none, ← Laws.badZone_some]
      decide +kernel⟩⟩

/-- One stop point alone in a section that is not defined. -/
def lone : Lds := { lineA with lineState := .setup, stops := [(0, stopA)], links := [], sections := [], merges := [] }

/-- R12: the checks of a line come in the order of its table, and the first that fails is named; here the second. -/
theorem lone_checks : topologyChecks lone = [⟨1, 0, thas lone.stations 0 = true, 1⟩] ++
    ⟨1, 0, thas lone.sections 0 = true, 2⟩ :: [⟨1, 0, ∀ j, some 0 = some j → thas lone.links j = true, 9⟩,
      ⟨1, 0, ∀ j k, some 0 = some j → tget lone.links j = some k → k.fromStop = 0, 13⟩] := rfl

/-- R12: each reason of the table, from the line above with one thing wrong. -/
theorem test_topology :
    let links (k : LinkFields → LinkFields) : Lds := { lineA with links := tmod lineA.links 95 k }
    let merges (m : MergeFields → MergeFields) : Lds := { lineA with merges := tmod lineA.merges 0 m }
    [topology { lineA with stations := [] }, topology lone, topology (links (fun k => { k with fromStop := 5 })),
      topology (links (fun k => { k with toStop := 5 })),
        topology { lineA with stops := tmod lineA.stops 63 (fun p => { p with direction := .down, station := 31 }) },
      topology (links (fun k => { k with fromStop := 0 })), topology { lineA with zones := [] },
        topology (merges (fun m => { m with stop := 5 })),
      topology (merges (fun m => { m with linkB := 5 })), topology (merges (fun m => { m with stop := 0 })),
      topology (merges (fun m => { m with linkB := 0 })),
        topology { lineA with merges := lineA.merges ++ [(1, { stop := 1, linkA := 0, linkB := 95, separation := 0 })] },
      topology { lineA with stops := tmod lineA.stops 63 (fun p => { p with nextLink := some 0 }) }] =
    [some (1, some 0, 1), some (1, some 0, 2), some (2, some 95, 3), some (2, some 95, 4), some (2, some 95, 5), some (2, some 95, 6),
      some (3, some 0, 7), some (5, some 0, 8), some (5, some 0, 9), some (5, some 0, 10), some (5, some 0, 11), some (5, some 1, 12),
      some (1, some 63, 13)] := by decide +kernel

/-- A sound line put in service, an empty one, one with a check that fails, one before the first tick; a line with trains and one without
put down. -/
theorem witness_StartsAndStopsService :
    (Received quiet desk0 ∧ LineWide quiet desk0 ∧ quiet.lds.lineState = .setup ∧ quiet.clock.ticked = true ∧ topology quiet.lds = none) ∧
      (ready.lds.lineState = .setup ∧ ready.clock.ticked = false) ∧
      ({ quiet.lds with stops := [] } : Lds).stops = [] ∧
      (lone.stops ≠ [] ∧ (∃ pre c post, topologyChecks lone = pre ++ c :: post ∧ (∀ d ∈ pre, d.holds) ∧ ¬ c.holds ∧ c.reason = 2) ∧
        (let s : State := { quiet with lds := lone }
         Received s desk0 ∧ LineWide s desk0 ∧ s.lds.lineState = .setup ∧ topology s.lds = some (1, some 0, 2))) ∧
      (busy.lds.lineState = .service ∧ busy.trt.trains ≠ []) ∧
      (({ busy with trt := { busy.trt with trains := [] } } : State).trt.trains = []) :=
  ⟨⟨quiet_received, quiet_lineWide, rfl, rfl, by decide +kernel⟩, by decide +kernel, rfl,
    ⟨by decide +kernel, ⟨_, _, _, lone_checks, fun d hd => by rw [List.mem_singleton.1 hd]; decide +kernel, by decide +kernel, rfl⟩,
      taken rfl, lineWide_of rfl, rfl, by decide +kernel⟩, by decide +kernel, rfl⟩

theorem busy_canonical : TablesCanonical busy := by constructor <;> decide +kernel

theorem busy_records : RecordsFollow busy := fun n =>
  ⟨thas_of_keys (by decide +kernel) n, thas_of_keys (by decide +kernel) n, thas_of_keys (by decide +kernel) n,
    thas_of_keys (by decide +kernel) n⟩

/-- No entry and no input acts on any section but with NONE, and so every section's effective action is NONE. -/
theorem quietly_strongest {s : State} (hi : ∀ p ∈ s.inm.incidents, p.2.action = .none) (ht : ∀ t ∈ s.inm.inputs.toList, t.inForce = false)
    (he : ∀ p ∈ s.inm.effective, p.2 = .none) : EffectiveStrongest s := by
  intro x a _ ha
  refine ⟨.inl (he _ (mem_of_tget ha)), ?_⟩
  rintro b (⟨p, hp, -, rfl, -⟩ | ⟨t, hm, c, hf, -⟩)
  · rw [hi p hp]; cases a <;> decide
  · rw [ht t hm] at hf; cases hf

theorem busy_strongest : EffectiveStrongest busy := quietly_strongest (by decide +kernel) (by decide +kernel) (by decide +kernel)

/-- Section 2 is LIVE with a proving owed; section 23 is EARTHED. -/
theorem witness_Restarts : Received busy desk0 ∧ LineWide busy desk0 ∧ TablesCanonical busy ∧ RecordsFollow busy ∧ EffectiveStrongest busy ∧
    (tget busy.trc.sections 2).map (fun r => (r.state, r.owed)) = some (.live, 1) ∧ (tget busy.trc.sections 23).isSome = true ∧
    (∃ p ∈ busy.anc.channels, p.2.playing ≠ none) :=
  ⟨busy_received, busy_lineWide, busy_canonical, busy_records, busy_strongest, by decide +kernel⟩

/-- Each parameter at a bound: 23, 255, 3000, 16, 1, 600, 10, 0, in SETUP and in SERVICE, and one past it. -/
theorem witness_LineParameters :
    (Received quiet desk0 ∧ LineWide quiet desk0 ∧ quiet.lds.lineState = .setup ∧ (0 : Int) ≤ 23 ∧ (23 : Int) ≤ 23 ∧ (23 : Int) < 24) ∧
      (Received busy desk0 ∧ LineWide busy desk0 ∧ busy.lds.lineState = .service) ∧
      ((1 : Int) ≤ 255 ∧ (0 : Int) ≤ 3000 ∧ (0 : Int) ≤ 16 ∧ (1 : Int) ≤ 16 ∧ (0 : Int) ≤ 600 ∧ (10 : Int) ≤ 3000 ∧ (0 : Int) < 1 ∧
        (9 : Int) < 10) :=
  ⟨⟨quiet_received, quiet_lineWide, rfl, by decide +kernel⟩, ⟨busy_received, busy_lineWide, rfl⟩, by decide +kernel⟩

/-- An object of each kind with a value at a bound of each code; values that break a joint constraint, values one past a bound, and objects
that are not defined. -/
theorem witness_ObjectParameters :
    Received busy desk0 ∧ LineWide busy desk0 ∧ busy.lds.lineState = .service ∧ (tget busy.lds.stations 31).isSome = true ∧
      tget busy.lds.stops 63 = some { stopA with nextLink := some 95 } ∧ stopRange 1 6000 = true ∧
      (stopWith 1 6000 stopA).minDwell ≤ (stopWith 1 6000 stopA).maxDwell ∧
      (stopWith 2 6000 { stopA with minDwell := 6000, maxDwell := 6000 }).maxDwell = 6000 ∧
      (let low : State := { busy with lds := { lineA with stops := [(0, { stopA with minDwell := 1 })] } }
       (tget low.lds.stops 0).any (fun p => (stopWith 2 0 p).maxDwell < (stopWith 2 0 p).minDwell) = true ∧ stopRange 2 0 = true) ∧
      (tget busy.lds.links 95).any (fun k => risingRuns (linkWith 8 50 k)) = true ∧
      (tget busy.lds.links 95).any (fun k => risingRuns (linkWith 5 51 k)) = false ∧
      tget busy.lds.sections 5 = some sectA ∧ sectionRange 11 600 = true ∧
      (sectionWith 11 600 sectA).provingDuration ≤ (sectionWith 11 600 sectA).provingTimeout ∧ sectionRange 15 1200 = true ∧
      (sectionWith 15 1200 sectA).provingTimeout < (sectionWith 15 1200 sectA).provingDuration ∧
      (tget busy.trc.sections 5).bind settleReference = some 900 ∧ (tget busy.trc.sections 0).map settleReference = some none ∧
      sectionRange 14 72000 = true ∧
      (tget busy.trc.sections 5).map (fun r => (r.interval, r.state)) = some (none, .live) ∧
      ((tget busy.trc.sections 2).bind SectRec.interval).isSome = true ∧
      tget busy.lds.zones 0 = some zoneA ∧ zoneRange 17 0 = true ∧ zoneRange 18 255 = true ∧ zoneRange 23 1 = true ∧ zoneRange 26 1 = true ∧
      (tget busy.gate.arbiters 0).isSome = true ∧ (tget busy.trc.zones 0).isSome = true ∧ (tget busy.lds.merges 0).isSome = true ∧
      tget busy.lds.classes 0 = some 63 ∧
      (paramRange 0 1800 = true ∧ paramObject busy 0 1 = false ∧ paramRange 28 63 = true ∧ paramObject busy 28 3 = false) ∧
      (paramRange 0 1801 = false ∧ paramRange 3 299 = false ∧ paramRange 8 12001 = false ∧ paramRange 14 599 = false ∧
        paramRange 26 0 = false ∧ paramRange 28 64 = false) :=
  ⟨busy_received, busy_lineWide, rfl, by decide +kernel⟩

/-- Every record of `busy` can be read by desk 0. -/
theorem witness_Reads :
    Received busy desk0 ∧ Somewhere busy desk0 .monitor ∧ busy.lds.lineState = .service ∧
      (∀ k, k < 7 → (objectItems busy k 0).isSome = true ∧ InArea busy desk0 .monitor (objectArea busy k 0)) ∧
      ((tget busy.trt.trains 1).isSome && (tget busy.reg.headways 63).isSome && (tget busy.reg.merges 0).isSome &&
        (tget busy.gate.arbiters 0).isSome && (tget busy.trc.sections 23).isSome && (tget busy.inm.incidents 1).isSome &&
        (tget busy.anc.channels 31).isSome) = true ∧
      (∀ area ∈ [trainArea busy 1, stopArea busy 63, mergeArea busy 0, zoneArea busy 0, sectArea busy 23,
        incidentArea busy (incidentA 0 .active .latched false)], InArea busy desk0 .monitor area) ∧
      InArea busy desk0 .monitor (stationArea busy 31) := by
  have areas : ∀ area ∈ [trainArea busy 1, stopArea busy 63, mergeArea busy 0, zoneArea busy 0, sectArea busy 23,
      incidentArea busy (incidentA 0 .active .latched false)], area = some 0 := by decide +kernel
  refine ⟨busy_received, ⟨15, by decide +kernel⟩, rfl, fun k hk => ⟨by revert k; decide, ?_⟩, by decide +kernel,
    fun area ha => areas area ha ▸ inArea0 rfl _, inArea_of (a := 15) (by decide +kernel)⟩
  have : ∀ k, k < 7 → objectArea busy k 0 = some 0 ∨ objectArea busy k 0 = none := by decide +kernel
  rcases this k hk with h | h
  · rw [h]; exact inArea0 rfl _
  · rw [h]; exact .inr ⟨rfl, busy_lineWide⟩

/-- Complete and partial RESYNC, automatic clearing on and off, the numbers 5, 7, 8, none and 6, and the table full under signs that agree. -/
theorem witness_ReadsThatClear :
    (Received busy desk0 ∧ Somewhere busy desk0 .monitor ∧ Somewhere busy desk0 .operate ∧ resyncComplete 0 busy = true ∧
        busy.atu.autoClear = false ∧ ({ busy with atu := { busy.atu with autoClear := true } } : State).atu.autoClear = true) ∧
      (let part : State := { busy with drt := { busy.drt with inForce := vmod busy.drt.inForce 7 (fun v => vmod v 15 (fun _ => .monitor)) } }
       Received part desk7 ∧ Somewhere part desk7 .monitor ∧ resyncComplete 7 part = false) ∧
      ([5, 7, 8] ≠ [] ∧ ∀ n ∈ [5, 7, 8], n = 5 ∨ n = 7 ∨ n = 8) ∧ (∃ n ∈ [5, 6], n ≠ 5 ∧ n ≠ 7 ∧ n ≠ 8) ∧
      (let full : State := setCategory .minorIncident true
        { ready with inm := { ready.inm with tableFull := true }, clock := { ready.clock with state := .unset } }
       Received full desk0 ∧ Somewhere full desk0 .monitor ∧ SignsFollow full ∧ full.inm.tableFull = true) :=
  ⟨⟨busy_received, ⟨15, by decide +kernel⟩, ⟨15, by decide +kernel⟩, by decide +kernel, rfl, rfl⟩,
    ⟨taken rfl, ⟨15, by decide +kernel⟩, by decide +kernel⟩, by decide +kernel, by decide +kernel,
    taken rfl, ⟨15, by decide +kernel⟩,
    (signs_iff _).1 ⟨by decide +kernel, by decide +kernel, by decide +kernel, by decide +kernel, by decide +kernel⟩, rfl⟩

/-- Trips in each run state; trip 2 is also taken with a rollover passed and with train 3. -/
theorem witness_CancelsTrip :
    Received busy desk0 ∧ LineWide busy desk0 ∧ findTrip busy 5 = none ∧ findTrip busy 65535 = some (tripA 65535 500 .planned) ∧
      findTrip busy 3 = some (tripA 3 300 .cancelled) ∧ findTrip busy 4 = some (tripA 4 400 .done) ∧
      findTrip busy 2 = some (tripA 2 200 .running) ∧
      findTrip { busy with store := { busy.store with trips := [{ tripA 2 200 .running with rolled := true, train := some 3 }] } } 2 =
        some { tripA 2 200 .running with rolled := true, train := some 3 } ∧
      (tget busy.trt.trains 3).isSome = true := ⟨busy_received, busy_lineWide, by decide +kernel⟩

/-- The replacements of the whole of trip 65535, times raised by 10. -/
def repsA : List Replacement :=
  [{ stop := 0, sa := none, sd := some 510, dmin := 0, dmax := 6000 }, { stop := 1, sa := some 610, sd := none, dmin := 0, dmax := 6000 }]

/-- Trip 65535 with its last entry unreadable, and so damaged. -/
def torn : Trip :=
  { tripA 65535 500 .planned with damaged := true, entries := [entryA 0 none (some 500) .clean, entryA 63 (some 600) none .unreadable] }

def tornState : State := { busy with store := { busy.store with trips := [torn] } }

/-- A replacement at stop point `p` with the times given. -/
def repA (p : Nat) (sa sd : Option Nat) : Replacement := { stop := p, sa := sa, sd := sd, dmin := 0, dmax := 6000 }

/-- Trip 65535 with its entries' bits as given. -/
def tripBits (a b : BitCondition) : Trip := { tripA 65535 500 .planned with entries := [entryA 0 none (some 500) a, entryA 1 (some 600) none b] }

/-- Trip 2 RUNNING, its first entry CALLED. -/
def tripCalled : Trip :=
  { tripA 2 200 .running with entries := [{ entryA 0 none (some 200) .clean with status := .called }, entryA 1 (some 300) none .clean] }

/-- Replacements that pass rows 2 to 4 of R37, the last of them that of the one PENDING entry of a RUNNING trip. -/
theorem retimeChecks_hold : ∀ q ∈ [(0, repsA, tripA 65535 500 .planned), (0, repsA, torn), (0, repsA, tripBits .single (.double 63)),
    (1, [repA 0 (some 600) none], tripA 65535 500 .planned), (1, [repA 1 (some 499) none], tripA 65535 500 .planned),
    (1, [repA 2 (some 600) none], torn), (1, [repA 0 (some 600) none], torn), (0, [repA 0 none (some 510)], torn),
    (1, [repA 1 (some 600) none], tripCalled)],
    ∀ c ∈ retimeChecks q.1 q.2.1 q.2.2, c.holds := by
  simp only [List.mem_cons, List.not_mem_nil, or_false, forall_eq_or_imp, forall_eq]
  refine ⟨?_, ?_, ?_, ?_, ?_, ?_, ?_, ?_, ?_⟩ <;>
    simp [retimeChecks, scheduleChecks, repsA, repA, tripA, entryA, torn, tripBits, tripCalled, asEntry, List.range, List.range.loop]

/-- For each row of 2 to 4 of R37 a request for which it is the first to fail: the empty list, a list past the end, a last entry with an Sd,
and an entry that is CALLED. -/
theorem witness_RetimesTrip_refused :
    (∃ pre c post, retimeChecks 0 [] (tripA 65535 500 .planned) = pre ++ c :: post ∧ (∀ d ∈ pre, d.holds) ∧ ¬ c.holds ∧
        c.refusal = refuseField 2) ∧
      (∃ pre c post, retimeChecks 1 repsA (tripA 65535 500 .planned) = pre ++ c :: post ∧ (∀ d ∈ pre, d.holds) ∧ ¬ c.holds ∧
        c.refusal = refuseField 1) ∧
      (∃ pre c post, retimeChecks 1 [repA 1 (some 600) (some 863999)] (tripA 65535 500 .planned) = pre ++ c :: post ∧
        (∀ d ∈ pre, d.holds) ∧ ¬ c.holds ∧ c.refusal = refuseEntry .range 1 2) ∧
      ∃ pre c post, retimeChecks 0 [repA 0 none (some 0)] tripCalled = pre ++ c :: post ∧ (∀ d ∈ pre, d.holds) ∧ ¬ c.holds ∧
        c.refusal = refuseEntryOnly .state 0 :=
  ⟨⟨[], _, _, rfl, nofun, by decide, rfl⟩, ⟨[_], _, _, rfl, by simp [repsA], by decide, rfl⟩,
    ⟨[_, _, _], _, _, rfl, by simp [repA, tripA, asEntry], by decide, rfl⟩,
    ⟨_, _, [], rfl, by simp [scheduleChecks, repA, tripA, tripCalled, asEntry], by decide, rfl⟩⟩

theorem witness_RetimesTrip :
    (Received busy desk0 ∧ LineWide busy desk0 ∧ (∀ c ∈ retimeChecks 0 repsA (tripA 65535 500 .planned), c.holds) ∧
        findTrip busy 5 = none ∧ findTrip busy 65535 = some (tripA 65535 500 .planned) ∧
        (∀ e ∈ (tripA 65535 500 .planned).entries, e.bits = .clean) ∧
        ((tripA 65535 500 .planned).entries.map (fun e => e.coded.stop) = repsA.map Replacement.stop) ∧
        firstFall 0 (timesFrom 0 ((tripA 65535 500 .planned).entries.mapIdx (fun j e =>
          ((if j < 0 then none else repsA[j - 0]?).map (asEntry 0)).getD e.coded))) = none) ∧
      (Received tornState desk0 ∧ LineWide tornState desk0 ∧ (∀ c ∈ retimeChecks 0 repsA torn, c.holds) ∧
        findTrip tornState 65535 = some torn ∧ repsA.length = torn.entries.length ∧ (∀ e ∈ torn.entries, e.bits = .clean ∨ e.bits = .unreadable) ∧
        (∀ q ∈ repsA, thas tornState.lds.stops q.stop = true) ∧
        (∀ e ∈ torn.entries.zip repsA, e.1.bits = .clean → e.1.coded.stop = e.2.stop) ∧
        (repsA.zip repsA.tail).all (fun q => (linkBetween tornState q.1.stop q.2.stop).isSome) = true ∧
        firstFall 0 (timesFrom 0 (repsA.map (asEntry 0))) = none) :=
  ⟨⟨busy_received, busy_lineWide, retimeChecks_hold (0, repsA, _) (.head _), by decide +kernel⟩, taken rfl, lineWide_of rfl,
    retimeChecks_hold (0, repsA, _) (.tail _ (.head _)), by decide +kernel⟩

/-- Row 5 of R37 entry by entry, over the entries of the trip alone. -/
theorem stopFits_of {s : State} {start : Nat} {reps : List Replacement} {r : Trip}
    (h : ∀ j < r.entries.length, ∀ q ∈ givenFor start reps j, ∀ e ∈ r.entries[j]?,
      if e.bits = .unreadable then
        thas s.lds.stops q.stop = true ∧
          (∀ p ∈ retimedStop start reps r (j - 1), 1 ≤ j → (linkBetween s p q.stop).isSome = true) ∧
          (∀ p ∈ retimedStop start reps r (j + 1), (linkBetween s q.stop p).isSome = true)
      else e.coded.stop = q.stop) (j : Nat) : StopFits s start reps r j := fun q e hq he => by
  have := h j (List.getElem?_eq_some_iff.1 he).1 q hq e he
  split
  · rw [if_pos ‹_›] at this; exact ⟨this.1, fun p a b => this.2.1 p b a, this.2.2⟩
  · rw [if_neg ‹_›] at this; exact this

/-- Rows 5 and 6 of R37: a readable entry given another stop point, an unreadable one given an undefined stop point and one that no link
reaches, and a time that falls; a part of a damaged trip, and the whole of a trip with a single and a double error, that pass. -/
theorem witness_RetimesTrip_reads :
    (RefusedByReading busy 1 [repA 0 (some 600) none] (tripA 65535 500 .planned) (refuseEntry .range 1 0) ∧
        RefusedByReading tornState 1 [repA 2 (some 600) none] torn (refuseEntry .unknown 1 0) ∧
        RefusedByReading tornState 1 [repA 0 (some 600) none] torn (refuseEntry .range 1 0) ∧
        RefusedByReading busy 1 [repA 1 (some 499) none] (tripA 65535 500 .planned) (refuseEntry .range 1 1)) ∧
      (∀ q ∈ [(0, repsA, tripA 65535 500 .planned), (0, repsA, torn), (0, repsA, tripBits .single (.double 63)),
          (1, [repA 0 (some 600) none], tripA 65535 500 .planned), (1, [repA 1 (some 499) none], tripA 65535 500 .planned),
          (1, [repA 2 (some 600) none], torn), (1, [repA 0 (some 600) none], torn), (0, [repA 0 none (some 510)], torn),
          (1, [repA 1 (some 600) none], tripCalled)], ∀ c ∈ retimeChecks q.1 q.2.1 q.2.2, c.holds) ∧
      ((∀ j, StopFits tornState 0 [repA 0 none (some 510)] torn j) ∧
        firstFall 0 (retimedTimes 0 [repA 0 none (some 510)] torn) = none ∧ torn.entries.map readBack = torn.entries) ∧
      (let r := tripBits .single (.double 63)
       let u : Trip := { r with entries := r.entries.map readBack, damaged := true }
       let s : State := { busy with store := { busy.store with trips := [r] } }
       Received s desk0 ∧ LineWide s desk0 ∧ s.store.corrected ≤ 255 ∧ findTrip s 65535 = some r ∧
         (∀ j, StopFits s 0 repsA u j) ∧ firstFall 0 (retimedTimes 0 repsA u) = none ∧ ∃ e ∈ r.entries, doubleError e) := by
  refine ⟨⟨.inl ⟨1, _, _, ?_, ?_, rfl, rfl, by decide +kernel⟩, .inl ⟨1, _, _, ?_, ?_, rfl, rfl, by decide +kernel⟩,
      .inl ⟨1, _, _, ?_, ?_, rfl, rfl, by decide +kernel⟩, .inr ⟨?_, 1, 1, by decide +kernel, rfl⟩⟩, retimeChecks_hold,
    ⟨?_, by decide +kernel⟩, taken rfl, lineWide_of rfl, by decide +kernel, by decide +kernel, ?_, by decide +kernel,
    _, .tail _ (.head _), 63, rfl⟩
  all_goals first
    | exact stopFits_of (by decide +kernel)
    | exact fun k hk => by obtain rfl : k = 0 := by omega
                           exact fun q e hq _ => nomatch hq
    | exact fun h => absurd ((if_neg (by decide +kernel)).mp (h _ _ rfl rfl)) (by decide +kernel)
    | exact fun h => absurd ((if_pos rfl).mp (h _ _ rfl rfl)).1 (by decide +kernel)
    | exact fun h => absurd (((if_pos rfl).mp (h _ _ rfl rfl)).2.1 0 (by decide) rfl) (by decide +kernel)

/-- The scrub at the last entry of trip 65535, its bits as given. -/
def scrubAt (b : BitCondition) : State :=
  { busy with
    scrubDue := true
    store := { busy.store with trips := [{ tripA 65535 500 .planned with entries := [entryA 0 none (some 500) .clean, entryA 1 (some 600) none b] }] } }

/-- A READ_TRIP that finds a single and a double error: the entry corrected, the other unreadable, the trip DAMAGED, the correction counted and
INTEGRITY raised (R44 to R46). -/
theorem test_read_corrects :
    let s : State := { busy with store := { busy.store with trips := [{ tripA 65535 500 .planned with
      entries := [entryA 0 none (some 500) .single, entryA 1 (some 600) none (.double 63)] }] } }
    let t := after (.readTripByNumber desk0 65535) s
    (findTrip t 65535).map (fun r => (r.damaged, r.entries.map Entry.bits, r.entries.map (fun e => e.coded.stop))) =
        some (true, [.clean, .unreadable], [0, 63]) ∧ t.store.corrected = 1 ∧
      (t.inm.incidents.any (fun p => p.2.source.kind = .integrity && p.2.loc = .trip 65535)) = true := by decide +kernel

/-- A trip to load, its times at the two ends of the day. -/
def tripL (n : Nat) : TripFields :=
  let e (p : Nat) (a d : Option Nat) : EntryFields := { stop := p, sa := a, sd := d, dmin := 6000, dmax := 6000, profile := 3 }
  { number := n, dayMask := [0, 6], next := some 1, entries := [e 0 none (some 0), e 1 (some 863999) none] }

/-- A trip for which row 1 is the first of R35 to fail, one for which row 2 is, and one for which row 6 is. -/
theorem witness_LoadsReadsAndScrubs_refused :
    (∃ pre c post, loadChecks busy (tripL 0) = pre ++ c :: post ∧ (∀ d ∈ pre, d.holds) ∧ ¬ c.holds ∧ c.refusal = refuseField 0) ∧
      (∃ pre c post, loadChecks busy { tripL 65534 with entries := (tripA 5 0 .planned).entries.reverse.map Entry.coded } = pre ++ c :: post ∧ (∀ d ∈ pre, d.holds) ∧ ¬ c.holds ∧ c.refusal = refuseEntry .range 0 1) ∧
      ∃ pre c post, loadChecks busy (tripL 65535) = pre ++ c :: post ∧ (∀ d ∈ pre, d.holds) ∧ ¬ c.holds ∧ c.refusal = refuse .conflict := by
  refine ⟨⟨[], _, _, rfl, nofun, by decide, rfl⟩, ⟨[_, _, _, _], _, _, rfl, by simp [tripL, tripA], by decide, rfl⟩,
    ⟨_, _, _, rfl, ?_, by decide +kernel, rfl⟩⟩
  simp [scheduleChecks, tripL, runningTimes, -Prod.exists]
  decide +kernel

/-- A trip that may be loaded among others in store order, an empty store, and one with a trip RUNNING; trips to read,
one with an entry in each condition and the count at 255; and the scrub at entries in each condition. -/
theorem witness_LoadsReadsAndScrubs :
    (Received busy desk0 ∧ LineWide busy desk0 ∧ StoreOrdered busy ∧ (∀ c ∈ loadChecks busy (tripL 65534), c.holds) ∧
        ∃ r ∈ busy.store.trips, r.run = .running) ∧
      (Received ready desk0 ∧ LineWide ready desk0 ∧ ∀ r ∈ ready.store.trips, r.run ≠ .running) ∧
      (Somewhere busy desk0 .monitor ∧ findTrip busy 65535 = some (tripA 65535 500 .planned) ∧
        (∀ e ∈ (tripA 65535 500 .planned).entries, e.bits = .clean ∨ e.bits = .unreadable) ∧ findTrip busy 5 = none ∧
        tripAfter busy 0 = some (tripA 1 100 .planned) ∧ findTrip busy 1 = some (tripA 1 100 .planned) ∧ tripAfter busy 65535 = none) ∧
      ({ ready with scrubDue := true } : State).store.scrub = none ∧
      (∀ b ∈ [BitCondition.clean, .single, .double 63, .unreadable], Received (scrubAt b) desk0 ∧ Somewhere (scrubAt b) desk0 .monitor ∧
        StoreOrdered (scrubAt b) ∧ (scrubAt b).store.corrected ≤ 255 ∧ (findTrip (scrubAt b) 65535).isSome = true ∧
        (tripAfter (scrubAt b) 0).map Trip.number = some 65535) ∧
      ∀ b ∈ [BitCondition.clean, .single, .double 63, .unreadable],
        (scrubAt b).powered = true ∧ (scrubAt b).resetPin = false ∧ (scrubAt b).scrubDue = true ∧
          (scrubAt b).store.scrub = some { trip := 65535, index := 1 } ∧
          ((findTrip (scrubAt b) 65535).bind (fun r => r.entries[1]?)).map Entry.bits = some b :=
  ⟨⟨busy_received, busy_lineWide, by unfold StoreOrdered storeBefore; decide +kernel, by
      simp [loadChecks, scheduleChecks, tripL, runningTimes, -Prod.exists]; decide +kernel, by decide +kernel⟩,
    ⟨ready_received, ready_lineWide, by decide +kernel⟩, ⟨⟨15, by decide +kernel⟩, by decide +kernel⟩, rfl,
    fun b hb => ⟨taken rfl, ⟨15, by decide, (by decide +kernel : Level.code .monitor ≤ Level.code (levelIn busy.drt.inForce 0 15))⟩, by
      unfold StoreOrdered storeBefore; revert b; decide +kernel⟩, by decide +kernel⟩

theorem busy_inArea (l : Level) : InArea busy desk0 l (some 0) := inArea0 rfl l

theorem busy_stop0 (l : Level) : InArea busy desk0 l (stopArea busy 0) := busy_inArea l
theorem busy_stop1 (l : Level) : InArea busy desk0 l (stopArea busy 1) := busy_inArea l
theorem busy_stop63 (l : Level) : InArea busy desk0 l (stopArea busy 63) := busy_inArea l

/-- Trip 1 leaves stop point 0 in 100 ds and trip 65535 in 500, both PLANNED and valid today: trip 1 is picked. -/
theorem busy_picked : Picked busy 0 (tripA 1 100 .planned) := by
  refine ⟨[], busy.store.trips.tail, 100, rfl, ⟨rfl, by decide +kernel, by decide +kernel, by decide, by decide, _, 100, rfl, .inl rfl,
    rfl, rfl, by decide +kernel⟩, nofun, ?_⟩
  rintro q hq c ⟨hr, -, -, h1, h2, e, v, he, -, -, hv, hd⟩
  have hl : ∀ q ∈ busy.store.trips.tail, q.run = .planned → q.entries[0]?.bind (fun e => e.coded.sd) = some 500 := by decide +kernel
  have ht : busy.clock.serviceTime = 0 := by decide +kernel
  have h := hl q hq hr
  rw [he, Option.bind_some, hv, Option.some.injEq] at h
  rw [ht, h] at hd
  omega

/-- Entry `j` is the first from `a` on with stop point `p`, by evaluation. -/
theorem firstAt_of {r : Trip} {a p j : Nat} (h : a ≤ j) (hj : (r.entries[j]?).map (fun e => (readBack e).coded.stop) = some p)
    (hx : ∀ x < j, a ≤ x → (r.entries[x]?).map (fun e => (readBack e).coded.stop) ≠ some p) : FirstAt r a p j := by
  refine ⟨h, ?_, fun x e ha hlt he hp => hx x hlt ha (by rw [he, Option.map_some, hp])⟩
  cases he : r.entries[j]? with
  | none => rw [he] at hj; cases hj
  | some e => rw [he] at hj; exact ⟨e, rfl, Option.some.inj hj⟩

/-- No trip begins at stop point 63. -/
theorem busy_noCandidate : ∀ r ∈ busy.store.trips, ∀ d, ¬ Candidate busy 63 r d := by
  rintro r hr d ⟨-, -, -, -, -, e, v, he, -, hp, -⟩
  have hl : ∀ r ∈ busy.store.trips, r.entries[0]?.map (fun e => e.coded.stop) = some 0 := by decide +kernel
  have h := hl r hr
  rw [he, Option.map_some, hp] at h
  exact absurd h (by decide)

/-- R55: the picking reads the first entry of each candidate: one with a single error is picked, one with a double error is dropped, and
one half a day ahead too. -/
theorem test_picks :
    let first (n sd : Nat) (b : BitCondition) : Trip := { tripA n sd .planned with entries := [entryA 0 none (some sd) b, entryA 1 (some 863999) none .clean] }
    let s : State := { busy with store := { busy.store with trips := [first 1 50 (.double 0), first 2 100 .single, first 3 100 .clean, first 4 432000 .clean] } }
    let t := after (.trainEnter desk0 9998 0 0 none) s
    (tget t.trt.trains 9998).bind Train.trip = some { trip := 2, index := 0 } ∧ t.store.corrected = 1 ∧
      (findTrip t 1).map Trip.damaged = some true := by decide +kernel

/-- Train 9998 enters at stop point 0, with no trip and with trip 65535, and at stop point 63; train 9999 is there already; and the table
full. -/
theorem witness_TrainEnters :
    Received busy desk0 ∧ InArea busy desk0 .operate (stopArea busy 0) ∧ InArea busy desk0 .operate (stopArea busy 63) ∧
      (StoreOrdered busy ∧ Picked busy 0 (tripA 1 100 .planned) ∧ ∀ r ∈ busy.store.trips, ∀ d, ¬ Candidate busy 63 r d) ∧
      FirstAt (tripA 65535 500 .planned) 0 0 0 ∧ busy.lds.lineState = .service ∧ AllIn (enterRanges 9998 0 0 none) ∧ AllIn (enterRanges 9998 0 0 (some 65535)) ∧ thas busy.lds.classes 0 = true ∧
        thas busy.lds.stops 0 = true ∧
      AllIn (enterRanges 9999 0 0 none) ∧ thas busy.trt.trains 9999 = true ∧ thas busy.trt.trains 9998 = false ∧ busy.trt.trains.length < 48 ∧
      findTrip busy 65535 = some (tripA 65535 500 .planned) ∧ AllIn (enterRanges 9998 0 63 (some 65535)) ∧
      (∀ e ∈ (tripA 65535 500 .planned).entries, e.bits = .clean ∧ e.coded.stop ≠ 63) ∧
      (0 + 1 < (tripA 65535 500 .planned).entries.length ∧ 1 < (tripA 1 100 .planned).entries.length) ∧
      (busy.clock.state = .running ∧ AllIn (enterRanges 9998 0 63 none) ∧ thas busy.lds.stops 63 = true) ∧
      (findTrip busy 5 = none ∧ AllIn (enterRanges 9998 0 0 (some 5)) ∧ findTrip busy 4 = some (tripA 4 400 .done) ∧
        AllIn (enterRanges 9998 0 0 (some 4))) ∧
      48 ≤ ({ busy with trt := { busy.trt with trains := (List.range 48).map (fun n => (n + 1, trainA 0 .held)) } } : State).trt.trains.length :=
  ⟨busy_received, busy_stop0 _, busy_stop63 _, ⟨by unfold StoreOrdered storeBefore; decide +kernel, busy_picked, busy_noCandidate⟩, firstAt_of (by decide) rfl (by decide), by
    simp only [← Laws.badEnter_none]
    decide +kernel⟩

/-- `busy` with trip 2 PLANNED, to go on as this trip. -/
def goingOn (next : Option Nat) : State :=
  { busy with store := { busy.store with trips := [{ tripA 2 200 .planned with next := next }, tripA 65535 500 .planned] } }

/-- R56, R64: a train that enters at the last stop point of trip 2 ends its run, and joins its next trip where it has one. -/
theorem test_enters_at_last : [none, some 65535].map (fun next =>
    let t := after (.trainEnter desk0 9998 0 1 (some 2)) (goingOn next)
    ((tget t.trt.trains 9998).bind Train.trip, (findTrip t 2).map Trip.run, (findTrip t 65535).map Trip.run)) =
    [(none, some .done, some .planned), (some ⟨65535, 1⟩, some .done, some .running)] := by decide +kernel

theorem witness_TrainEnters_at_last : ∀ next ∈ [none, some 65535], Received (goingOn next) desk0 ∧
    InArea (goingOn next) desk0 .operate (stopArea (goingOn next) 1) ∧ (goingOn next).lds.lineState = .service ∧
    AllIn (enterRanges 9998 0 1 (some 2)) ∧ thas (goingOn next).lds.classes 0 = true ∧ thas (goingOn next).lds.stops 1 = true ∧
    thas (goingOn next).trt.trains 9998 = false ∧ (goingOn next).trt.trains.length < 48 ∧
    findTrip (goingOn next) 2 = some { tripA 2 200 .planned with next := next } ∧ next ≠ some 2 ∧
    FirstAt { tripA 2 200 .planned with next := next } 0 1 1 ∧ Joinable (goingOn next) (tripA 65535 500 .planned) ∧
    FirstAt (tripA 65535 500 .planned) 0 1 1 := by
  intro next hn
  refine ⟨taken rfl, inArea0 rfl _, rfl, (Laws.badEnter_none ..).1 (by decide), rfl, rfl, rfl, (by decide : busy.trt.trains.length < 48), rfl,
    by revert next; decide, firstAt_of (by decide) rfl (by revert next; decide), ⟨rfl, rfl, (by decide +kernel : (0 : Nat) ∈ [0])⟩,
    firstAt_of (by decide) rfl (by decide)⟩

/-- Train 9999, unscheduled and HELD at stop point 1, which trip 65535 calls at last; train 1 given a trip. -/
theorem witness_AssignsTrip :
    Received busy desk0 ∧ InArea busy desk0 .operate (trainArea busy 9999) ∧ FirstAt (tripA 65535 500 .planned) 0 1 1 ∧
      busy.lds.lineState = .service ∧ tget busy.trt.trains 9999 = some { trainA 1 .held with causes := [.noRoute], nextLink := none } ∧ findTrip busy 5 = none ∧
      findTrip busy 65535 = some (tripA 65535 500 .planned) ∧ tget (tmod busy.trt.trains 9999 (fun t => { t with loc := .stop 63 })) 9999 =
        some { trainA 63 .held with causes := [.noRoute], nextLink := none } ∧
      (∀ e ∈ (tripA 65535 500 .planned).entries, e.bits = .clean ∧ e.coded.stop ≠ 63) ∧
      findTrip busy 4 = some (tripA 4 400 .done) ∧
      tget (tmod busy.trt.trains 1 (fun t => { t with trip := some { trip := 2, index := 0 } })) 1 =
        some { trainA 0 .dwelling with trip := some { trip := 2, index := 0 } } :=
  ⟨busy_received, busy_inArea _, firstAt_of (by decide) rfl (by decide), by decide +kernel⟩

/-- Stamps of `busy`, whose service time is 0, each with its signed difference from that and the difference clamped. -/
def stampsA : List (Nat × Int × Int) :=
  [(0, 0, 0), (1, 1, 0), (431999, 431999, 0), (432000, -432000, -600), (863399, -601, -600), (863400, -600, -600), (863999, -1, -1)]

/-- R59: the moments those stamps give. -/
theorem test_stamps : stampsA.map (fun q => ((momentOf busy (some q.1)).svc, (momentOf busy (some q.1)).clamped)) =
    [(some 0, false), (some 0, true), (some 0, true), (some 863400, true), (some 863400, true), (some 863400, false), (some 863999,
      false)] := by
  decide +kernel

/-- `busy` with train 3 RUNNING on trip 2, which calls at these stop points and goes on as this trip. -/
def onRoute (stops : List Nat) (next : Option Nat) : State :=
  { busy with store := { busy.store with trips :=
      [{ tripA 2 200 .running with entries := stops.map (fun p => entryA p (some 200) (some 200) .single), next := next, train := some 3 },
        tripA 65535 500 .planned] } }

/-- R61, R64: arrivals that are NORMAL, SKIPPED and OFF_TRIP, and at the last entry with no next trip and with one, joined at its last
entry: the trip and stop index after, and of trip 2 its run state and its entries' statuses. -/
theorem test_arrival_matches :
    [([0, 63, 1, 63], 63, none), ([0, 63, 1, 63], 1, none), ([0, 63, 1], 0, none), ([0, 63, 1], 1, none), ([0, 63, 1], 1, some 65535)].map
      (fun (q : List Nat × Nat × Option Nat) =>
        let t := after (.arrival desk0 3 q.2.1 none) (onRoute q.1 q.2.2)
        ((tget t.trt.trains 3).bind Train.trip, (findTrip t 2).map (fun r => (r.run, r.entries.map Entry.status)))) =
    [(some ⟨2, 1⟩, some (.running, [.pending, .called, .pending, .pending])),
      (some ⟨2, 2⟩, some (.running, [.pending, .skipped, .called, .pending])), (none, some (.done, [.pending, .pending, .pending])),
      (none, some (.done, [.pending, .skipped, .called])), (some ⟨65535, 1⟩, some (.done, [.pending, .skipped, .called]))] := by
  decide +kernel

/-- R62: train 2, RELEASED at stop point 63, arrives at stop point 1: its grant is gone with its units, and no DEPART_CANCEL is queued. -/
theorem test_missed_departure :
    let t := after (.arrival desk0 2 1 none) busy
    (tget t.gate.arbiters 0).map (fun a => (a.grants.map Grant.train, a.inUse)) = some ([3], 2) ∧
      t.link.outbound.all (fun o => o ≠ .departCancel 2 63) = true := by decide +kernel

/-- What a matched arrival's clauses need of train 3 at stop point `p`. -/
def Routed (stops : List Nat) (next : Option Nat) (p : Nat) (r : Trip) : Prop :=
  Received (onRoute stops next) desk0 ∧ InArea (onRoute stops next) desk0 .monitor (stopArea (onRoute stops next) p) ∧
    (tget (onRoute stops next).trt.trains 3).map (fun k => (k.state, k.trip)) = some (.running, some { trip := 2, index := 0 }) ∧
    findTrip (onRoute stops next) 2 = some r ∧ r.run = .running ∧ r.next ≠ some 2 ∧ tget (onRoute stops next).lds.stops p ≠ none

theorem routed {stops : List Nat} {next : Option Nat} {p : Nat} {r : Trip} (hp : stopArea busy p = some 0)
    (h : findTrip (onRoute stops next) 2 = some r) (hr : r.run = .running ∧ r.next ≠ some 2) (hs : tget busy.lds.stops p ≠ none) :
    Routed stops next p r :=
  ⟨taken rfl, by rw [show stopArea (onRoute stops next) p = some 0 from hp]; exact inArea0 rfl _,
    (by decide +kernel : (tget busy.trt.trains 3).map (fun k => (k.state, k.trip)) = some (.running, some { trip := 2, index := 0 })),
    h, hr.1, hr.2, hs⟩

/-- Train 3 at the next entry, a later one, none and the last, with a next trip that it may join, with one that lacks the stop point and
with none. -/
theorem witness_Arrives_trip :
    (∃ r, Routed [0, 63, 1, 63] none 63 r ∧ FirstAt r 1 63 1 ∧ 1 + 1 < r.entries.length) ∧
      (∃ r, Routed [0, 63, 1, 63] none 1 r ∧ FirstAt r 1 1 2 ∧ 2 + 1 < r.entries.length) ∧
      (∃ r, Routed [0, 63, 1] none 0 r ∧ ∀ x e, 0 < x → r.entries[x]? = some e → (readBack e).coded.stop ≠ 0) ∧
      (∃ r, Routed [0, 1] none 1 r ∧ FirstAt r 1 1 1 ∧ 1 + 1 = r.entries.length) ∧
      (∃ r, Routed [0, 1] (some 65535) 1 r ∧ FirstAt r 1 1 1 ∧ r.next = some 65535 ∧
        findTrip (onRoute [0, 1] (some 65535)) 65535 = some (tripA 65535 500 .planned) ∧
        Joinable (onRoute [0, 1] (some 65535)) (tripA 65535 500 .planned) ∧ FirstAt (tripA 65535 500 .planned) 0 1 1) ∧
      ∃ r, Routed [0, 63] (some 65535) 63 r ∧ FirstAt r 1 63 1 ∧ ∀ y, ¬ FirstAt (tripA 65535 500 .planned) 0 63 y := by
  refine ⟨⟨_, routed rfl rfl ⟨rfl, nofun⟩ nofun, firstAt_of (by decide) rfl (by decide), by decide⟩,
    ⟨_, routed rfl rfl ⟨rfl, nofun⟩ nofun, firstAt_of (by decide) rfl (by decide), by decide⟩,
    ⟨_, routed rfl rfl ⟨rfl, nofun⟩ nofun, ?_⟩,
    ⟨_, routed rfl rfl ⟨rfl, nofun⟩ nofun, firstAt_of (by decide) rfl (by decide), rfl⟩,
    ⟨_, routed rfl rfl ⟨rfl, nofun⟩ nofun, firstAt_of (by decide) rfl (by decide), rfl, rfl, ⟨rfl, rfl, by decide +kernel⟩,
      firstAt_of (by decide) rfl (by decide)⟩,
    ⟨_, routed rfl rfl ⟨rfl, nofun⟩ nofun, firstAt_of (by decide) rfl (by decide), ?_⟩⟩
  · rintro (_ | _ | _ | x) e h he
    · cases h
    all_goals cases he
    all_goals decide
  · rintro (_ | _ | y) ⟨-, ⟨e, he, hp⟩, -⟩ <;> cases he <;> revert hp <;> decide

/-- Train 3 RUNNING and train 9999 standing at stop point 1; a stamp at the end of the day, one past it, and stamps on both sides of the
clamp; a train and a stop point that are not. -/
theorem witness_Arrives :
    Received busy desk0 ∧ InArea busy desk0 .monitor (stopArea busy 1) ∧ busy.lds.lineState = .service ∧
      (∀ v, some 863999 = some v → v < 864000) ∧ tget busy.lds.stops 1 ≠ none ∧ tget busy.lds.stops 2 = none ∧
        tget busy.trt.trains 5 = none ∧
      (tget busy.trt.trains 3).map Train.state = some .running ∧
      (tget busy.trt.trains 9999).map (fun k => (k.state, k.loc)) = some (.held, .stop 1) ∧ 864000 ≤ 864000 ∧
      ((tget busy.trt.trains 2).map (fun k => (k.state, k.loc, k.grant)) =
          some (.released, .stop 63, some { zone := 0, units := 2, givenAt := 950, startedAt := none }) ∧
        (tget busy.gate.arbiters 0).any (fun a => a.grants.any (fun g => g.train = 3 && g.startedAt ≠ none)) = true ∧
        ∀ r ∈ busy.store.trips, ∀ e ∈ r.entries, e.bits = .clean) ∧
      (busy.clock.state = .running ∧ ready.clock.state = .unset ∧ ∀ q ∈ stampsA, -432000 ≤ q.2.1 ∧ q.2.1 ≤ 431999 ∧
        (q.2.1 - ((q.1 : Int) - busy.clock.serviceTime)) % 864000 = 0 ∧ q.2.2 = max (-600) (min 0 q.2.1)) :=
  ⟨busy_received, busy_stop1 _, rfl, fun v h => by cases h; decide +kernel, by decide +kernel⟩

theorem busy_notWaiting (n : Nat) : ¬ Waiting busy n := by
  rintro ⟨p, hp, q, hq, -⟩
  have : ∀ p ∈ busy.gate.arbiters, p.2.starts = [] := by decide +kernel
  rw [this p hp] at hq; cases hq

/-- `busy` with train 2 at the first entry of trip 2, its bits as given. -/
def leaving (b : BitCondition) : State :=
  { busy with
    trt := { busy.trt with trains := tmod trainsA 2 (fun k => { k with trip := some { trip := 2, index := 0 } }) }
    store := { busy.store with trips := [{ tripA 2 200 .running with entries := [entryA 63 none (some 200) b, entryA 1 (some 300) none .clean] }] } }

/-- R67: the headway memory takes the departure time of an entry that can be read. -/
theorem test_departure_memory : [BitCondition.clean, .single, .double 63, .unreadable].map (fun b =>
    (tget (after (.departure desk0 2 63 none) (leaving b)).reg.headways 63).bind Headway.sprev) = [some 200, some 200, none, none] := by
  decide +kernel

/-- `busy` with train 2 holding a STARTED grant from an earlier departure too. -/
def leavingAgain : State :=
  { busy with gate := { busy.gate with arbiters := [(0, { capacity := 12, inUse := 4, lastStop := none, starts := [], grants :=
      [{ train := 2, stop := 63, units := 2, givenAt := 950, startedAt := none, expiry := 1000 },
       { train := 2, stop := 0, units := 2, givenAt := 600, startedAt := some 700, expiry := 1001 }] })] } }

/-- R102: at the departure the grant is STARTED for the window of 300 ds and the earlier one is gone; with a stamp 300 ds back both are. -/
theorem test_departure_grants : [none, some 863700].map (fun stamp =>
    ((tget (after (.departure desk0 2 63 stamp) leavingAgain).gate.arbiters 0).map Arbiter.grants,
      (tget (after (.departure desk0 2 63 stamp) leavingAgain).trt.trains 2).bind Train.grant)) =
    [(some [{ train := 2, stop := 63, units := 2, givenAt := 950, startedAt := some 1000, expiry := 1300 }],
      some { zone := 0, units := 2, givenAt := 950, startedAt := some 1000 }), (some [], none)] := by decide +kernel

/-- Trains in each state at a stop point, train 2 with a trip whose entry is in each condition, and its grant with a window to come and with
one that ends at the stamp. -/
theorem witness_Departs :
    TablesCanonical busy ∧ Received busy desk0 ∧ InArea busy desk0 .monitor (stopArea busy 63) ∧ busy.lds.lineState = .service ∧
      (∀ v, (none : Option Nat) = some v → v < 864000) ∧ ¬ Waiting busy 2 ∧ (tget busy.lds.stops 63 ≠ none ∧ tget busy.lds.stops 0 ≠ none ∧
      (tget busy.trt.trains 2).map (fun k => (k.state, k.loc)) = some (.released, .stop 63) ∧
      (tget busy.trt.trains 3).map Train.state = some .running ∧
      (tget busy.trt.trains 1).map (fun k => (k.state, k.loc)) = some (.dwelling, .stop 0) ∧
      (tget busy.trt.trains 9999).map (fun k => (k.state, k.loc)) = some (.held, .stop 1) ∧
      (tget busy.trt.trains 2).map (fun k => (k.trip, k.grant)) = some (none, some { zone := 0, units := 2, givenAt := 950, startedAt := none })
      ∧ (tget busy.gate.arbiters 0).any (fun a => a.grants.any (fun c => c.train = 2 && c.startedAt = none)) = true ∧
      reached busy.now (later (momentOf busy none).count (startWindowOf busy 0)) = false ∧
      reached busy.now (later (momentOf busy (some 863700)).count (startWindowOf busy 0)) = true) ∧
      ∀ b ∈ [BitCondition.clean, .single, .double 63, .unreadable], Received (leaving b) desk0 ∧
        (tget (leaving b).trt.trains 2).map (fun k => (k.state, k.loc, k.trip)) = some (.released, .stop 63,
          some { trip := 2, index := 0 }) ∧
        ((findTrip (leaving b) 2).bind (fun r => r.entries[0]?)).map Entry.bits = some b :=
  ⟨busy_canonical, busy_received, busy_stop63 _, rfl, nofun, busy_notWaiting 2, by decide +kernel, fun b hb => ⟨taken rfl, by revert b; decide +kernel⟩⟩

theorem witness_TrainLeaves :
    Received busy desk0 ∧ LineWide busy desk0 ∧ busy.lds.lineState = .service ∧ tget busy.trt.trains 5 = none ∧ trainArea busy 5 = none ∧
      InArea busy desk0 .operate (trainArea busy 2) ∧
      ((tget busy.trt.trains 2).map (fun k => (k.state, k.loc)) = some (.released, .stop 63) ∧
        (tget busy.trt.trains 3).bind Train.trip = some { trip := 2, index := 0 } ∧ findTrip busy 2 = some (tripA 2 200 .running)) :=
  ⟨busy_received, busy_lineWide, rfl, by decide +kernel, by decide +kernel, busy_inArea _, by decide +kernel⟩

/-- The regulation of 05 section 5.11; train 3, RUNNING, at stop point 1; RESTRICT on section 1, toward which train 1 waits; SET_DWELL of
trains in each state. -/
theorem witness_RegulatesAndSetsDwell :
    lateTrain.bounds.dmin ≤ lateTrain.bounds.dmax ∧
      (Received busy desk0 ∧ InArea busy desk0 .monitor (stopArea busy 1) ∧ busy.lds.lineState = .service ∧
        (tget busy.trt.trains 3).map Train.state = some .running ∧ (tget busy.lds.stops 1).isSome = true ∧
        tget busy.reg.headways 1 = some { last := none, sprev := none, train := none } ∧ TablesCanonical busy) ∧
      (tget (tellEffect busy (1, .none, .restrict)).trt.trains 1).map (fun k => (k.state, nextSect (tellEffect busy (1, .none,
        .restrict)) k)) =
        some (.dwelling, some 1) ∧
      InArea busy desk0 .operate (trainArea busy 9999) ∧ 1 ≤ 1 ∧ 9999 ≤ 9999 ∧
      (tget busy.trt.trains 9999).map (fun k => (k.state, k.loc)) = some (.held, .stop 1) ∧
      (tget busy.trt.trains 1).map (fun k => (k.state, k.loc)) = some (.dwelling, .stop 0) ∧ tget busy.lds.stops 0 = some stopA ∧
      InArea busy desk0 .operate (trainArea busy 3) ∧
      (tget busy.trt.trains 2).map (fun k => (k.state, k.loc)) = some (.released, .stop 63) ∧ tget busy.trt.trains 5 = none :=
  ⟨by decide, ⟨busy_received, busy_stop1 _, rfl, by decide +kernel, by decide +kernel, by decide +kernel, busy_canonical⟩,
    by decide +kernel,
    busy_inArea _, by decide, by decide, by decide +kernel, by decide +kernel, by decide +kernel, busy_inArea _, by decide +kernel⟩

/-- `busy` with section 1 LIVE, no hold at stop point 63, and the merge at stop point 1 committed to an arrival over link 0 or not. -/
def timingOut (committed : Option Commit) : State :=
  { busy with
    trc := { busy.trc with sections := tmod sectionsA 1 (fun r => { r with state := .live, timeout := none }) }
    gate := { busy.gate with platformHolds := [] }
    reg := { busy.reg with merges := [(0, { stop := 1, linkA := 0, linkB := 95, separation := 1200, committed := committed })] } }

/-- R103: after the release timeout train 2 asks again, or waits for the merge. -/
theorem test_release_asks :
    let s := after (.releaseTimeout 2) (timingOut none)
    let t := after (.releaseTimeout 2) (timingOut (some { count := 13000, side := .a }))
    ((tget s.trt.trains 2).map (fun k => (k.state, k.causes)) = some (.held, [.awaitGrant]) ∧
        (tget s.gate.arbiters 0).map (fun a => a.starts.map Request.train) = some [2]) ∧
      (tget t.trt.trains 2).map (fun k => (k.state, k.causes)) = some (.held, [.mergeGap]) ∧
        (tget t.gate.arbiters 0).map (fun a => a.starts.map Request.train) = some [] := by decide +kernel

/-- Each timer of a train at the moment it expires, and one a decisecond away; a release that times out with the way ahead, with and without
a merge to wait for; and a STARTED grant that the record names. -/
theorem witness_TrainTimers :
    busy.powered = true ∧ busy.resetPin = false ∧ busy.now = 1000 ∧
      ((tget busy.trt.trains 1).map (fun k => (k.state, k.causes, k.dwellExpiry)) = some (.dwelling, [.dwell], 1000) ∧
        reached 1000 1000 = true ∧ reached 1000 1001 = false) ∧
      (tget busy.trt.trains 4).map (fun k => (k.state, k.causes, k.mergeGap)) = some (.held, [.mergeGap], some 1000) ∧
      (tget busy.trt.trains 2).map (fun k => (k.state, k.loc, k.grant.map GrantRef.zone)) = some (.released, .stop 63, some 0) ∧
      (tget busy.gate.arbiters 0).map Arbiter.grants = some
        [{ train := 2, stop := 63, units := 2, givenAt := 950, startedAt := none, expiry := 1000 },
         { train := 3, stop := 0, units := 2, givenAt := 600, startedAt := some 700, expiry := 1000 }] ∧
      (¬ Waiting busy 2 ∧ ¬ Waiting busy 3) ∧ UnitsBalance busy ∧ tget busy.gate.arbiters 7 = none ∧
      (tget (tmod busy.trt.trains 3 (fun k => { k with grant := some { zone := 0, units := 2, givenAt := 600, startedAt := some 700 } })) 3).bind
        Train.grant = some { zone := 0, units := 2, givenAt := 600, startedAt := some 700 } ∧
      ∀ c ∈ [none, some { count := 13000, side := .a }], (timingOut c).powered = true ∧ (timingOut c).resetPin = false ∧
        ¬ Waiting (timingOut c) 2 ∧ (∃ k, tget (timingOut c).trt.trains 2 = some k ∧ WayAhead (timingOut c) k 1 ∧ k.deskHold = false) ∧
        sectZone (timingOut c) 1 = some 0 ∧ 63 ∉ (timingOut c).gate.platformHolds ∧
        ∃ r, tget (timingOut c).trc.sections 1 = some r ∧ r.owed = 0 ∧ r.pending ≠ some .isolateOnClear := by
  refine ⟨rfl, rfl, by decide +kernel, by decide +kernel, by decide +kernel, by decide +kernel, by decide +kernel,
    ⟨busy_notWaiting 2, busy_notWaiting 3⟩, by unfold UnitsBalance; decide +kernel, by decide +kernel, by decide +kernel, fun c _ =>
    ⟨rfl, rfl, ?_, ⟨_, rfl, ⟨rfl, ⟨_, rfl, rfl, by decide +kernel, nofun⟩, (by decide +kernel : effectiveOf busy 1 ≠ .hold),
      (by decide +kernel : effectiveOf busy 1 ≠ .deEnergise)⟩, rfl⟩, (by decide +kernel : sectZone busy 1 = some 0), nofun, _, rfl, rfl, nofun⟩⟩
  exact busy_notWaiting 2

/-- A decisecond before, none of the timers of those trains is due, nor is any of a train that is RUNNING. -/
theorem test_timers_not_due :
    let s : State := { busy with clock := { busy.clock with runningCount := 999 } }
    ([.dwellExpiry 1, .mergeGapExpiry 4, .releaseTimeout 2, .startWindowEnd 0 3, .dwellExpiry 3, .mergeGapExpiry 3] : List Instr).all
      (fun c => after c s = s) = true ∧ (tget s.trt.trains 3).map Train.state = some .running ∧
    [(1000 : Count)].all (fun e => reached s.now e = false) = true := by decide +kernel

theorem witness_DeskAndPlatformHolds :
    Received busy desk0 ∧ LineWide busy desk0 ∧ busy.lds.lineState = .service ∧ tget busy.trt.trains 5 = none ∧
      InArea busy desk0 .operate (trainArea busy 1) ∧ InArea busy desk0 .operate (trainArea busy 4) ∧
      ((tget busy.trt.trains 1).map Train.deskHold = some false ∧ (tget busy.trt.trains 4).map (fun k => (k.deskHold,
        k.state)) = some (true, .held)) ∧
      InArea busy desk0 .operate (stopArea busy 63) ∧ InArea busy desk0 .operate (stopArea busy 0) ∧
      (thas busy.lds.stops 63 = true ∧ thas busy.lds.stops 0 = true ∧ 63 ∈ busy.gate.platformHolds ∧ 0 ∉ busy.gate.platformHolds) ∧
      ¬ Waiting busy 2 :=
  ⟨busy_received, busy_lineWide, rfl, by decide +kernel, busy_inArea _, busy_inArea _, by decide +kernel, busy_inArea _, busy_inArea _, by
    decide +kernel, busy_notWaiting 2⟩

theorem witness_Fits : (∀ q ∈ ({ capacity := 0, inUse := 0, lastStop := none, starts := [req 1 0 1 0], grants := [] } : Arbiter).starts,
  1 ≤ q.units) ∧
    (({ capacity := 0, inUse := 0, lastStop := none, starts := [], grants := [] } : Arbiter).capacity = 0 ∧ 1 ≤ (req 1 0 1 0).units) ∧
    (({ capacity := 1, inUse := 0, lastStop := none, starts := [], grants := [] } : Arbiter).inUse = 0 ∧ 0 < 1) := by decide

/-- `busy` with section 1 LIVE, trains of `units` units, and the merge at stop point 1 committed to an arrival over link 95 or not. -/
def clearAhead (units : Nat) (committed : Option Commit) : State :=
  { busy with
    lds := { lineA with classes := [(0, units)] }
    trc := { busy.trc with sections := tmod sectionsA 1 (fun r => { r with state := .live, timeout := none }) }
    reg := { busy.reg with merges := [(0, { stop := 1, linkA := 0, linkB := 95, separation := 0, committed := committed })] } }

/-- Start lists with an urgent request that fits and one that does not, with an older one of the last-granted stop point, and with none that
fits; merge checks of both links, alone, and against each other's commit on both sides of the separation; train 1 at its dwell expiry with
8 units, which fit 12, with 63, which do not, and with the other link committed later. -/
theorem witness_SelectsAndReleases :
    (let a (l : List Request) (inUse : Nat) : Arbiter := { capacity := 12, inUse := inUse, lastStop := some 20, starts := l, grants := [] }
     (a [req 21 20 6 2, req 24 22 1 0] 5).fits (req 21 20 6 2) = true ∧ (a [req 21 20 6 2] 11).fits (req 21 20 6 2) = false ∧
       (a [req 21 20 6 0, req 22 21 3 0] 9).fits (req 21 20 6 0) = false ∧ (a [req 21 20 6 0,
         req 22 21 3 0] 9).fits (req 22 21 3 0) = true ∧
       (a [req 24 20 1 0, req 25 22 1 0] 11).fits (req 24 20 1 0) = true ∧ (a [req 24 20 1 0, req 25 22 1 0] 11).lastStop ≠ some 22) ∧
      (let s (c : Option Commit) := clearAhead 8 c
       let pa : Count := 13000
       (∃ k, tget (s none).trt.trains 1 = some k ∧ k.nextLink = some 0 ∧
          pa = (s none).now + BitVec.ofNat 32 (runTime { fromStop := 0, toStop := 1, sect := 1, run0 := 50, run1 := 50, run2 := 50, run3 := 12000 }
            (if nextRestricted (s none) k then 3 else k.profile))) ∧
         (pa - ((13000 : Count) + BitVec.ofNat 32 0)).toInt = 0 ∧ (pa - ((13001 : Count) + BitVec.ofNat 32 0)).toInt < 0 ∧ Side.b ≠ .a) ∧
      ∀ s ∈ [clearAhead 8 none, clearAhead 63 none, clearAhead 8 (some { count := 13001, side := .b })],
        s.powered = true ∧ s.resetPin = false ∧ ∃ k r a, tget s.trt.trains 1 = some k ∧ k.state = .dwelling ∧ k.causes = [.dwell] ∧
          reached s.now k.dwellExpiry = true ∧ k.loc = .stop 0 ∧ k.deskHold = false ∧ 0 ∉ s.gate.platformHolds ∧ WayAhead s k 1 ∧
          tget s.trc.sections 1 = some r ∧ r.owed ≠ 8 ∧ r.pending ≠ some .isolateOnClear ∧ sectZone s 1 = some 0 ∧
          tget s.gate.arbiters 0 = some a ∧ a.starts = [] ∧
          (mergeCheck s k, a.fits { train := 1, stop := 0, units := (tget s.lds.classes k.cls).getD 0, time := s.now, skipped := 0 }) =
            (if s = clearAhead 8 none then (.satisfied (some (0, { count := 13000, side := .a })), true)
            else if s = clearAhead 63 none then (.satisfied (some (0, { count := 13000, side := .a })), false)
            else (.wait 1001, true)) := by
  refine ⟨by decide +kernel, ⟨⟨_, rfl, by decide +kernel⟩, by decide +kernel⟩, ?_⟩
  intro s hs
  simp only [List.mem_cons, List.not_mem_nil, or_false] at hs
  rcases hs with rfl | rfl | rfl <;>
    exact ⟨rfl, rfl, _, _, _, rfl, rfl, rfl, by decide +kernel, rfl, rfl, by decide +kernel,
      ⟨by decide +kernel, ⟨_, rfl, rfl, by decide +kernel, nofun⟩, by decide +kernel, by decide +kernel⟩, rfl, by decide +kernel, by decide +kernel,
        by decide +kernel,
      rfl, rfl, by decide +kernel⟩

theorem busy_on (l : Level) {x : Nat} {r : SectRec} (hx : x < 24) (hf : tget busy.lds.sections x = some sectA)
    (hr : tget busy.trc.sections x = some r) : OnSection busy desk0 l x sectA r := by
  refine ⟨busy_received, ?_, hx, hf, hr, .inl rfl⟩
  have : sectArea busy x = some 0 := by rw [sectArea, hf]; rfl
  rw [this]; exact busy_inArea l

/-- Every section of `busy` is one a traction command may be given for. -/
theorem witness_sections (l : Level) : ∀ p ∈ busy.trc.sections, OnSection busy desk0 l p.1 sectA p.2 := by
  have h : ∀ p ∈ busy.trc.sections, p.1 < 24 ∧ tget busy.lds.sections p.1 = some sectA ∧
    tget busy.trc.sections p.1 = some p.2 := by decide +kernel
  exact fun p hp => busy_on l (h p hp).1 (h p hp).2.1 (h p hp).2.2

/-- ENERGISE: section 0 may start, 8 must wait for 1001, 1 has no effect, 5 cancels; 23 is refused; 6 is due at 1000 and 7 at 1001; and a
section with both limits, which fall together, and the one or the other later. -/
theorem witness_Energises :
    OnSection busy desk0 .operate 0 sectA SectRec.init ∧
      (effectiveOf busy 0 ≠ .deEnergise ∧ limitsMet busy.now sectA SectRec.init = true ∧
        (tget busy.trc.sections 8).map (fun r => (limitsMet busy.now sectA r, energiseLimit sectA r)) = some (false, some 1001) ∧
        (tget busy.trc.sections 1).map SectRec.state = some .energising ∧
        (tget busy.trc.sections 5).map (fun r => (r.state, r.pending)) = some (.live, some .isolateOnClear) ∧
        (tget busy.trc.sections 23).map SectRec.state = some .earthed ∧
        (tget busy.trc.sections 6).bind SectRec.pending = some (.energiseDeferred 1000) ∧ reached busy.now 1000 = true ∧
        (tget busy.trc.sections 7).bind SectRec.pending = some (.energiseDeferred 1001) ∧ reached busy.now 1001 = false) ∧
      ((tget busy.trc.sections 8).map (fun r => (r.lastIsolated, r.lastEnergiseStart)) = some (some 901, none) ∧
        [(700 : Count), 699, 701].map (fun e => ((900 + BitVec.ofNat 32 sectA.deadTime) - (e + BitVec.ofNat 32 sectA.cycleTime)).toInt) = [0, 1, -1] ∧
        [(700 : Count), 699, 701].map (fun e => energiseLimit sectA { SectRec.init with lastIsolated := some 900, lastEnergiseStart := some e }) =
          [some 1000, some 1000, some 1001]) :=
  ⟨busy_on _ (by decide) (by decide +kernel) (by decide +kernel), by decide +kernel, by decide +kernel⟩

theorem witness_Isolates :
    OnSection busy desk0 .operate 2 sectA { SectRec.init with
      state := .live, settle := some 1000, settleArmed := true, owed := 1, interval := some 1000 } ∧
      (occupancyOf busy 2 = 0 ∧ (tget busy.trc.sections 6).map (fun r => (r.state, r.pending)) = some (.dead,
        some (.energiseDeferred 1000)) ∧
        (tget busy.trc.sections 0).map (fun r => (r.state, r.pending)) = some (.dead, none) ∧
        (tget busy.trc.sections 4).map SectRec.state = some .isolating ∧
        (tget busy.trc.sections 9).map (fun r => (r.state, r.pending)) = some (.proving, none) ∧
        (tget busy.trc.sections 3).map (fun r => (r.state, r.pending)) = some (.proving, some .isolateOnClear) ∧
        (tget busy.trc.sections 23).map SectRec.state = some .earthed) :=
  ⟨busy_on _ (by decide) (by decide +kernel) (by decide +kernel), by decide +kernel⟩

theorem witness_Earths :
    OnSection busy desk0 .full 8 sectA { SectRec.init with lastIsolated := some 901 } ∧
      (occupancyOf busy 8 = 0 ∧ (tget busy.trc.sections 0).map SectRec.state = some .dead ∧ occupancyOf busy 0 ≠ 0 ∧
        (tget busy.trc.sections 23).map SectRec.state = some .earthed ∧ (tget busy.trc.sections 2).map SectRec.state = some .live) :=
  ⟨busy_on _ (by decide) (by decide +kernel) (by decide +kernel), by decide +kernel⟩

/-- Section 2 with one owed, 10 with 8, both clear and their watches reached; 9 PROVING; 0 DEAD with no watch and no interval. -/
theorem witness_Provings :
    OnSection busy desk0 .operate 10 sectA { SectRec.init with state := .live, settle := some 1000, settleArmed := true, owed := 8 } ∧
      (busy.powered = true ∧ busy.resetPin = false ∧
        (tget busy.trc.sections 2).map (fun r => (r.state, r.owed, r.interval, r.settle, r.settleArmed)) =
          some (.live, 1, some 1000, some 1000, true) ∧
        occupancyOf busy 2 = 0 ∧ releasedToward busy 2 = false ∧ (tget busy.trc.sections 9).map SectRec.state = some .proving ∧
        (tget busy.trc.sections 0).map (fun r => (r.state, r.interval, r.settle)) = some (.dead, none, none)) :=
  ⟨busy_on _ (by decide) (by decide +kernel) (by decide +kernel), by decide +kernel⟩

theorem witness_OperationTimeouts :
    TablesCanonical busy ∧ (tget busy.trc.sections 3).map (fun r => (r.pending, occupancyOf busy 3)) = some (some .isolateOnClear, 0) ∧
      reached busy.now (later busy.now sectA.settleTime) = false ∧ (busy.powered = true ∧ busy.resetPin = false ∧ reached busy.now 1000 = true) ∧
      ([1, 4, 3].map (fun x => (tget busy.trc.sections x).map (fun r => (r.state, r.timeout))) =
        [some (.energising, some 1000), some (.isolating, some 1000), some (.proving, some 1000)]) ∧
      tget busy.lds.sections 3 = some sectA ∧ (tget busy.trc.sections 0).map SectRec.timeout = some none :=
  ⟨busy_canonical, by decide +kernel⟩

/-- Both positions of the breaker of a section in each state. -/
theorem witness_BreakerReports :
    TablesCanonical busy ∧ Received busy desk0 ∧ InArea busy desk0 .monitor (sectArea busy 23) ∧ 23 < 24 ∧ tget busy.lds.sections 23 = some sectA ∧
      ([0, 1, 2, 3, 4, 23].map (fun x => (tget busy.trc.sections x).map SectRec.state) =
        [some .dead, some .energising, some .live, some .proving, some .isolating, some .earthed]) ∧
      (TablesCanonical quiet ∧ Received quiet desk0 ∧ InArea quiet desk0 .monitor (sectArea quiet 0) ∧ quiet.lds.lineState = .setup ∧
        tget quiet.lds.sections 0 = some sectA ∧ (tget quiet.trc.sections 0).map SectRec.state = some .dead) ∧
      (let s : State := { busy with inm := { busy.inm with effective := tput busy.inm.effective 0 .deEnergise } }
       TablesCanonical s ∧ Received s desk0 ∧ InArea s desk0 .monitor (sectArea s 0) ∧ effectiveOf s 0 = .deEnergise ∧
         (tget s.trc.sections 0).map SectRec.state = some .dead) :=
  ⟨busy_canonical, busy_received, busy_inArea _, by decide +kernel, by decide +kernel, by decide +kernel,
    ⟨by constructor <;> decide +kernel, quiet_received, inArea0 rfl _, by decide +kernel⟩,
    by constructor <;> decide +kernel, taken rfl, inArea0 rfl _, by decide +kernel⟩

theorem witness_ProveResults :
    TablesCanonical busy ∧ Received busy desk0 ∧ InArea busy desk0 .monitor (sectArea busy 3) ∧ 3 < 24 ∧ tget busy.lds.sections 3 = some sectA ∧
      (tget busy.trc.sections 3).map (fun r => (r.state, r.pending)) = some (.proving, some .isolateOnClear) ∧ occupancyOf busy 3 = 0 ∧
      (tget busy.trc.sections 9).map (fun r => (r.state, r.pending)) = some (.proving, none) ∧
      (tget busy.trc.sections 23).map SectRec.state = some .earthed :=
  ⟨busy_canonical, busy_received, busy_inArea _, by decide +kernel⟩

/-- NORMAL zone 0 at the bounds of each step of R130: 199 and 199; 599 and 630; 599 and 629; and UNFED, its FEED_LOST entry present, at 250
on the far side. -/
theorem witness_FeedMeasures :
    TablesCanonical busy ∧ Received busy desk0 ∧ InArea busy desk0 .monitor (zoneArea busy 0) ∧ 0 < 8 ∧ tget busy.lds.zones 0 = some zoneA ∧
      tget busy.trc.zones 0 = some { feed := .normal, capacity := 12, measured := none } ∧
      (199 < zoneA.vdead ∧ 599 + zoneA.hc < 630 ∧ 599 < zoneA.vtrip ∧ ¬ 599 + zoneA.hc < 629 ∧ min 65535 2000 = 2000) ∧
      (let lost : Incident := { incidentA 0 .active .perCycle true with source := { kind := .feedLost, number := 0 }, loc := .zone 0 }
       let s : State := { busy with
         trc := { busy.trc with zones := [(0, { feed := .unfed, capacity := 0, measured := none })] }
         inm := { busy.inm with incidents := [(1, lost)] } }
       TablesCanonical s ∧ Received s desk0 ∧ InArea s desk0 .monitor (zoneArea s 0) ∧ (tget s.trc.zones 0).map ZoneRec.feed = some .unfed ∧
         zoneA.vdead + zoneA.ht ≤ 250 ∧ (tget (after (.feedMeasure desk0 0 190 250) s).inm.incidents 1).map Incident.condition = some false) :=
  ⟨busy_canonical, busy_received, busy_inArea _, by decide +kernel, by decide +kernel, by decide +kernel, by decide +kernel,
    ⟨by constructor <;> decide +kernel, taken rfl, inArea0 rfl _, by decide +kernel⟩⟩

/-- Numbers 15 of inputs, kinds and channels, 255 of templates, 31 of plans and entries, desk 7; and each with a field out of range. -/
theorem witness_Settings :
    Received busy desk0 ∧ LineWide busy desk0 ∧ (∀ x ∈ [0, 23], x < 24) ∧
      AllIn (escalationRanges 15 { kind := 15, filter := .num 63, period := 7, severity := .val .major, action := .val .hold, mode := .val .latched }) ∧
      AllIn (planRanges 31
        { source := .val .trip, number := .num 65535, minSeverity := .val .minor, opening := 255,
          reminder := some 255, interval := 6000, resumed := some 255 }) ∧
      AllIn (scheduledRanges 31
        { enabled := 1, dayMask := [6], hour := .num 23, minute := .num 59, second := .num 59, mode := .val .once,
          stations := [31], template := 255, priority := .val .routine }) ∧
      AllIn (rightsRanges 7 [(15, .val .full)]) ∧ thas busy.lds.stops 63 = true ∧ thas busy.lds.stops 2 = false ∧
      AllIn (escalationRanges 15 { kind := 15, filter := .num 2, period := 7, severity := .val .major, action := .val .hold, mode := .val .latched }) ∧
      FirstOut (tripInputRanges 16 { qualTime := 0, mode := .val .latched, targets := [], action := .val .none, severity := .val .minor }) 0 ∧
      FirstOut (detectionKindRanges 15
        { handling := .outside 2, severity := .val .minor, action := .val .none, mode := .val .latched,
          scope := .val .station }) 1 ∧
      FirstOut (escalationRanges 15 { kind := 15, filter := .any, period := 8, severity := .val .major, action := .val .hold, mode := .val .latched }) 3 ∧
      FirstOut (templateRanges 255 { length := 9, params := 4 }) 1 ∧
      FirstOut (planRanges 31
        { source := .val .trip, number := .any, minSeverity := .val .minor, opening := 255, reminder := none,
          interval := 49, resumed := none }) 6 ∧
      FirstOut (scheduledRanges 31
        { enabled := 1, dayMask := [], hour := .any, minute := .any, second := .any, mode := .val .once,
          stations := [], template := 0, priority := .val .routine }) 5 ∧
      FirstOut (rightsRanges 0 [(0, .val .none)]) 0 := ⟨busy_received, busy_lineWide, by
    simp only [← Laws.badEscalation_none, ← Laws.badPlan_none, ← Laws.badScheduled_none, ← Laws.badRights_none, ← Laws.badTripInput_some,
      ← Laws.badDetectionKind_some, ← Laws.badEscalation_some, ← Laws.badTemplate_some, ← Laws.badPlan_some, ← Laws.badScheduled_some,
      ← Laws.badRights_some]
    decide +kernel⟩

theorem witness_ReloadsRights : (Received busy desk0 ∧ LineWide busy desk0) ∧ (Received ready desk7 ∧ ¬ LineWide ready desk7) :=
  ⟨⟨busy_received, busy_lineWide⟩, taken rfl, by unfold LineWide; decide +kernel⟩

/-- A desk's incident at section 23, new, at stop point 0, merged, and with the table full; a plan for desks' incidents with a reminder;
kinds 15 and 1 at stop point 0, 15 COUNTED at stop point 63; channels 0, 1, 15. -/
theorem witness_RaisesAndDetects :
    let plan : Plan := { source := .desk, number := .any, minSeverity := .minor, opening := 0, reminder := some 0, interval := 50, resumed := none }
    let planned : State := { busy with anc := { busy.anc with plans := [(0, plan)] } }
    let counted : State := { busy with inm := { busy.inm with kinds := vmod busy.inm.kinds 15 (fun d => { d with handling := .counted }) } }
    Received busy desk0 ∧ busy.lds.lineState = .service ∧ TablesCanonical busy ∧
      (∀ area ∈ raiseLocArea busy (.sect 23) :: [0, 23].map (sectArea busy), InArea busy desk0 .operate area) ∧
      (okRaiseLoc (.sect 23) = true ∧ definedLoc busy (.sect 23) = true ∧ (∀ x ∈ [0, 23], x < 24 ∧ thas busy.lds.sections x = true) ∧
        findIncident busy.inm.incidents { kind := .desk, number := 0 } (raiseLoc (.sect 23)) = none ∧ busy.inm.incidents.length < 32 ∧
        findIncident busy.inm.incidents { kind := .desk, number := 0 } (raiseLoc (.stop 0)) = some (1, incidentA 0 .active .latched false) ∧
        32 ≤ ({ busy with inm := { busy.inm with incidents := (List.range 32).map (fun n => (n, incidentA n .active .latched true)) } } :
          State).inm.incidents.length) ∧
      (planOf planned.anc.plans { kind := .desk, number := 0 } = some plan ∧
        affectedStations planned { incidentA 0 .active .latched false with loc := .sect 23, targets := [0, 23] } = [0] ∧
        planOf busy.anc.plans { kind := .desk, number := 0 } = none) ∧
      ((thas busy.lds.stops 0 = true ∧ thas busy.lds.stops 63 = true ∧ (busy.inm.kinds[15]?).map DetectionKind.handling = some .direct ∧
        matching busy 1 0 = [] ∧ matching counted 15 63 = [15] ∧
        (counted.inm.kinds[15]?).map DetectionKind.handling = some .counted) ∧ InArea counted desk0 .monitor (stopArea counted 63) ∧
        findIncident busy.inm.incidents { kind := .detection, number := 1 } (.stop 0) = none ∧
        findIncident ((List.range 32).map (fun n => (n, incidentA n .active .latched true))) { kind := .detection, number := 1 } (.stop 0) =
          none ∧
        (findIncident busy.inm.incidents { kind := .detection, number := 15 } (.stop 0)).isSome = true ∧
        (busy.inm.channels[0]?).map Channel.period = some 0 ∧ (busy.inm.channels[1]?).map (fun c => (c.period, c.count)) = some (2, 0) ∧
        (busy.inm.channels[15]?).map (fun c => (c.period, c.count, c.openIncident)) = some (1, 0, none)) := by
  refine ⟨busy_received, rfl, busy_canonical, ?_, by decide +kernel, by decide +kernel, by decide +kernel, inArea0 rfl _, by decide +kernel⟩
  have h : ∀ area ∈ raiseLocArea busy (.sect 23) :: [0, 23].map (sectArea busy), area = some 0 := by decide +kernel
  intro area ha
  rw [h area ha]; exact busy_inArea _

/-- R138, R139: a detection under the scope STATION names the sections of all its stop points, of a kind that is a condition and of one that
is an event. -/
theorem test_detection_entry :
    let s : State := { busy with
      lds := { busy.lds with stops := tmod busy.lds.stops 1 (fun p => { p with sect := 23 }) }
      inm := { busy.inm with kinds := vmod (vmod busy.inm.kinds 1 (fun d => { d with scope := .station })) 2 (fun d => { d with scope := .station }) } }
    [1, 2].map (fun k => (findIncident (after (.detection desk0 k 0 (.val .active)) s).inm.incidents { kind := .detection, number := k } (.stop 0)).map
      (fun p => (p.2.targets, p.2.condition, p.2.raised, p.2.recurrences))) =
    [some ([0, 23], true, 1000, 0), some ([0, 23], false, 1000, 0)] := by decide +kernel

theorem witness_AcksAndClears :
    TablesCanonical busy ∧ Received busy desk0 ∧ InArea busy desk0 .operate (incidentArea busy (incidentA 0 .active .latched false)) ∧
      InArea busy desk0 .full (incidentArea busy (incidentA 0 .active .latched false)) ∧
      ([1, 2, 3, 4, 65535].map (fun n => (tget busy.inm.incidents n).map (fun i => (i.state, i.mode, i.condition, i.source.kind))) =
        [some (.active, .latched, false, .desk), some (.acked, .latched, false, .desk), some (.lifted, .latched, false, .desk),
         some (.active, .perCycle, false, .desk), some (.active, .latched, true, .desk)]) :=
  ⟨busy_canonical, busy_received, busy_inArea _, busy_inArea _, by decide +kernel⟩

/-- A full table with a standing INTEGRITY entry at trip 1 and RESTRICT on section 1, which train 1 is to enter from an entry of that trip
with these bits; input 14, with no qualification time, would hold the section. -/
def restricted (bits : BitCondition) : State :=
  { busy with
    trt := { busy.trt with trains := tmod trainsA 1 (fun k => { k with trip := some { trip := 1, index := 0 } }) }
    store := { busy.store with trips := [{ tripA 1 100 .running with entries := [entryA 0 none (some 100) bits, entryA 1 (some 200) none .clean] }] }
    inm := { busy.inm with
      inputs := vmod busy.inm.inputs 14 (fun t => { t with qualTime := 0, set := { t.set with action := .hold, targets := [1] } })
      effective := tput busy.inm.effective 1 .restrict
      incidents := (List.range 32).map (fun n => (n + 1,
        if n = 0 then { incidentA 0 .acked .latched false with
          source := { kind := .integrity, number := 0 }, loc := .trip 1, targets := [], recurrences := 0 }
        else { incidentA n .acked .latched false with loc := .trip n, action := .restrict, targets := [1] })) } }

theorem restricted_clean : NoDoubleError (restricted .clean) := by
  have hc : ∀ r ∈ (restricted .clean).store.trips, ∀ e ∈ r.entries, e.bits = .clean := by decide +kernel
  rintro r hr e he ⟨p, hp⟩
  rw [hc r hr e he] at hp
  cases hp

/-- R45, R82, R83, R137, R144, R145, R149: the raise of input 14 is lost to the full table, and it is in force without an entry, holding
section 1; RESTRICT being over there, the profile of train 1 is recomputed, and the double error it finds adds to the INTEGRITY entry. -/
theorem test_lost_raise_reads : [BitCondition.double 0, .clean].map (fun bits =>
    let t := after (.tripInputActive 14) (restricted bits)
    ((t.inm.inputs[14]?).map (fun k => (k.inForce, k.entry)), effectiveOf t 1, (tget t.inm.incidents 1).map Incident.recurrences,
      decide (t.inm.incidents = (restricted bits).inm.incidents), decide (t.inm.incidents.tail = (restricted bits).inm.incidents.tail))) =
    [(some (true, none), .hold, some 1, false, true), (some (true, none), .hold, some 0, true, true)] := by decide +kernel

/-- Inputs IDLE (1), ACTIVE (0), QUALIFYING (15), one with no qualification time, one in force without an entry whose PER_CYCLE settings are
captured, a whole second due with entries ACTIVE and with one ACKED, the part in RESET, and a table full with a double error in the store and without. -/
theorem witness_TripInputs :
    let due : State := { busy with
      liftDue := true
      inm := { busy.inm with inputs := vmod (vmod busy.inm.inputs 14 (fun t => { t with qualTime := 0 })) 13 (fun t =>
        { t with inForce := true, captured := some { t.set with mode := .perCycle } }) } }
    (busy.powered = true ∧ busy.resetPin = false ∧ busy.liftDue = false ∧
        [0, 1, 15].map (fun n => (busy.inm.inputs[n]?).map (fun k => (k.qual, k.qualTime))) =
          [some (.active, 10), some (.idle, 10), some (.qualifying, 10)]) ∧
      ((due.inm.inputs[14]?).map (fun k => (k.qual, k.qualTime)) = some (.idle, 0) ∧ due.liftDue = true ∧
        (due.inm.inputs[13]?).map (fun k => (k.inForce, k.entry, k.captured.map Captured.mode, k.qual)) =
          some (true, none, some .perCycle, .idle) ∧
        (∀ p ∈ due.inm.incidents, p.2.mode = .perCycle → p.2.condition = false → p.2.state ≠ .acked) ∧
        (tget due.inm.incidents 4).map (fun i => (i.mode, i.state, i.condition, i.source.kind)) = some (.perCycle, .active, false, .desk)) ∧
      (let acked : State := { due with inm := { due.inm with incidents := tput due.inm.incidents 4 (incidentA 3 .acked .perCycle false) } }
       tget acked.inm.incidents 4 = some (incidentA 3 .acked .perCycle false) ∧ acked.liftDue = true) ∧
      (findIncident busy.inm.incidents { kind := .trip, number := 15 } .none = none ∧ busy.inm.incidents.length < 32 ∧
        ∀ r ∈ busy.store.trips, ∀ e ∈ r.entries, e.bits = .clean) ∧
      TablesCanonical busy ∧ TablesCanonical due ∧ ({ busy with resetPin := true } : State).resetPin = true ∧
      (∀ b, TablesCanonical (restricted b) ∧ (restricted b).powered = true ∧ (restricted b).resetPin = false ∧
        (restricted b).inm.incidents.length = 32 ∧
        findIncident (restricted b).inm.incidents { kind := .trip, number := 14 } .none = none ∧
        ((restricted b).inm.inputs[14]?).map (fun k => (k.qual, k.qualTime, k.set.targets)) = some (.idle, 0, [1]) ∧
        thas (restricted b).inm.effective 1 = true) ∧
      NoDoubleError (restricted .clean) ∧ ¬ NoDoubleError (restricted (.double 0)) :=
  ⟨by decide +kernel, by decide +kernel, by decide +kernel, by decide +kernel, busy_canonical, by constructor <;> decide +kernel, rfl,
    fun b => ⟨by constructor <;> rfl, rfl, rfl, rfl, rfl, rfl, rfl⟩, restricted_clean,
    fun h => h _ List.mem_cons_self _ List.mem_cons_self ⟨0, rfl⟩⟩

/-- R143: the number of the entry of input 15 is the first that no entry holds from the next number on, over the wrap from 65535, here past
65535, 1, 2, 3 and 4. -/
theorem test_incident_numbers :
    let t := after (.tripQualification 15) { busy with inm := { busy.inm with nextNumber := 65535 } }
    (t.inm.inputs[15]?).bind TripInput.entry = some 5 ∧ t.inm.nextNumber = 6 := by decide +kernel

/-- A full table whose entry 3 is LIFTED and the open incident of channel 15, which is at its period; and input 13 in force without an entry,
or not. -/
def crowded (waits : Bool) : State :=
  { busy with inm := { busy.inm with
      inputs := vmod busy.inm.inputs 13 (fun t => { t with inForce := waits, captured := some t.set })
      channels := vmod busy.inm.channels 15 (fun c => { c with count := 1, openIncident := some 3, lastStop := some 63 })
      incidents := (List.range 32).map (fun n => (n + 1, { incidentA n .lifted .latched false with loc := .trip n })) } }

/-- R147, R154: at the removal of entry 3 the room goes to input 13; without it, channel 15 raises again. -/
theorem test_removal : [true, false].map (fun w =>
    let t := after (.ackIncident desk0 3) (crowded w)
    ((t.inm.inputs[13]?).bind TripInput.entry, (t.inm.channels[15]?).map (fun c => (c.openIncident, c.count)), t.inm.incidents.length)) =
    [(some 33, some (none, 1), 32), (none, some (some 33, 0), 32)] := by decide +kernel

theorem witness_AcksAndClears_removal : ∀ w, TablesCanonical (crowded w) ∧ SourcesSound (crowded w) ∧ Received (crowded w) desk0 ∧
    InArea (crowded w) desk0 .operate (incidentArea (crowded w) { incidentA 2 .lifted .latched false with loc := .trip 2 }) ∧
    tget (crowded w).inm.incidents 3 = some { incidentA 2 .lifted .latched false with loc := .trip 2 } ∧
    ((crowded w).inm.inputs[13]?).map awaitsEntry = some w ∧ ((crowded w).inm.channels[15]?).map (raisesAgain 3) = some true ∧
    (crowded w).inm.incidents.length + inputsWaiting (crowded w) 13 = 32 ∧ inputsWaiting (crowded w) 16 = w.toNat ∧
    channelsRaising (crowded w) 3 15 = 0 := by
  intro w
  refine ⟨by cases w <;> constructor <;> decide +kernel, fun p hp => ?_, taken rfl, inArea0 rfl _, by cases w <;> decide +kernel⟩
  have h : ∀ p ∈ (crowded w).inm.incidents, p.2.source.kind = .desk := by cases w <;> decide +kernel
  rw [h p hp]; exact ⟨nofun, nofun⟩

/-- `busy` with eight entries at station 31, the last of a priority, and a DISRUPTION play there. -/
def fullStation (p : Priority) : State :=
  let channel : StationChannel :=
    { playing := some { entry := { entryQ 1 900 with priority := .disruption }, start := 900, ending := 2000, finishing := false }
      queue := (List.range 8).map (fun n => { entryQ 1000 1001 with seq := BitVec.ofNat 32 (n + 2), priority := p })
      nextSeq := 10 }
  { busy with anc := { busy.anc with channels := tput busy.anc.channels 31 channel } }

/-- Both stations with room; station 31 full of ROUTINE entries and of EMERGENCY ones; an EMERGENCY over the play at station 0; desk 7,
which has no level. -/
theorem witness_DeskAnnouncements :
    (Received busy desk0 ∧ busy.lds.lineState = .service ∧ [0, 31] ≠ [] ∧ (∀ x ∈ [0, 31], x < 32 ∧ thas busy.lds.stations x = true) ∧
      0 ≤ 255 ∧
        tget busy.anc.templates 0 = some { length := 10, params := 0 } ∧
        (∀ q : ReminderFields, some { template := 0, interval := 6000, count := .count 15 } = some q → okReminder q = true ∧
          thas busy.anc.templates q.template = true) ∧
        (normSet 32 [0, 31]).filter (fun x => holdsAt busy 0 .operate (stationArea busy x)) = [0, 31] ∧
        (tget busy.anc.channels 0).map (fun c => c.queue.length) = some 1) ∧
      ((tget (fullStation .routine).anc.channels 31).map (fun c => (c.queue.length, (c.queue.getLast?).map QueueEntry.priority)) =
          some (8, some .routine) ∧
        (tget (fullStation .emergency).anc.channels 31).map (fun c => (c.queue.length, (c.queue.getLast?).map QueueEntry.priority)) =
          some (8, some .emergency) ∧
        (∀ p : Priority, ¬ Priority.code p < Priority.code .emergency) ∧ Priority.code .service < Priority.code .routine ∧
        Received (fullStation .routine) desk0 ∧ Received (fullStation .emergency) desk0) ∧
      ((normSet 32 [0]).filter (fun x => holdsAt busy 0 .operate (stationArea busy x)) = [0] ∧
        (∀ c, tget busy.anc.channels 0 = some c → c.queue.length < 8 ∧ (∀ e ∈ c.queue, e.priority ≠ .emergency) ∧
          c.playing.any (fun w => w.entry.priority ≠ .emergency) = true) ∧ busy.link.outbound.length ≤ 94) ∧
      (Received busy desk7 ∧ (normSet 32 [31]).filter (fun x => holdsAt busy 7 .operate (stationArea busy x)) = []) :=
  ⟨⟨busy_received, rfl, by decide +kernel, by decide +kernel, by decide +kernel, by decide +kernel, fun q h => by cases h; decide +kernel,
    by
    decide +kernel⟩, ⟨by decide +kernel, by decide +kernel, fun p => by cases p <;> decide, by decide,
      taken rfl, taken rfl⟩,
    ⟨by decide +kernel, fun c h => by
      have hc : tget busy.anc.channels 0 = some
        { playing := some { entry := entryQ 1 900, start := 900, ending := 1000, finishing := false }
          queue := [entryQ 2 1000], nextSeq := 3 } := by decide +kernel
      rw [hc] at h; cases h; decide +kernel, by decide +kernel⟩,
    taken rfl, by decide +kernel⟩

/-- Station 0 has a play and an entry at their time, 1000; station 31 is SILENT with an entry at 1001; a play with a reminder left and one
until the incident closes; an EMERGENCY entry that is eligible; an announced incident with a resumed template; and a station ahead with a
lead, without one, and with an approach template, the arrival ahead and past. -/
theorem witness_AnnounceTimers :
    (busy.powered = true ∧ busy.resetPin = false ∧ busy.now = 1000 ∧
        ((tget busy.anc.channels 0).bind StationChannel.playing).map Playing.ending = some 1000 ∧
        ((tget busy.anc.channels 0).bind (fun c => c.queue.find? (fun e => e.seq = 2))).map
          (fun e => (e.notBeforeTaken, e.notBefore, e.expiry, e.priority)) = some (false, some 1000, some 1000, .routine) ∧
        (tget busy.anc.channels 31).map StationChannel.playing = some none ∧
        ((tget busy.anc.channels 31).bind (fun c => c.queue.find? (fun e => e.seq = 4))).map
          (fun e => (e.notBeforeTaken, e.notBefore, e.expiry, e.eligible 1001)) = some (false, some 1001, some 1001, false) ∧
        (entryQ 4 1001).notBefore = some 1001 ∧ ({ entryQ 4 1000 with expiry := none } : QueueEntry).eligible 1000 = true) ∧
      (let urgent : QueueEntry := { entryQ 3 1000 with priority := .emergency, expiry := none }
       let reminded (m : Remaining) : Playing :=
         { entry := { entryQ 1 900 with reminder := some { template := 0, interval := 6000, remaining := m } }, start := 900, ending := 1000,
           finishing := false }
       let s (m : Remaining) : State := { busy with anc := { busy.anc with channels :=
         [(0, { playing := some (reminded m), queue := [entryQ 2 1000, urgent], nextSeq := 4 })] } }
       ∀ m ∈ [Remaining.count 0, .count 1, .untilClosed], tget (s m).anc.channels 0 =
           some { playing := some (reminded m), queue := [entryQ 2 1000, urgent], nextSeq := 4 } ∧
         [entryQ 2 1000, urgent].find? (QueueEntry.eligible (s m).now) = some urgent ∧ thas (s m).anc.templates urgent.template = true) ∧
      (let told : Announced := { incident := 1, stations := [0, 31], resumed := some 0, params := [1, 0, 2, 0] }
       let s : State := { busy with anc := { busy.anc with announced := [told] } }
       s.lds.lineState = .service ∧ s.anc.announced.find? (fun a => a.incident = 1) = some told ∧ told.stations.Nodup ∧
         thas s.anc.templates 0 = true ∧ quiet.lds.lineState = .setup) ∧
      (let s (lead : Nat) : State := { busy with
         lds := { lineA with stations := [(0, { area := 0, lead := lead }), (31, { area := 15, lead := 1800 })] }
         anc := { busy.anc with approach := 0 } }
       (∀ lead ∈ [0, 1800], (nextLinkOf (s lead) (trainA 0 .dwelling)).map LinkFields.toStop = some 1 ∧
          (tget (s lead).lds.stops 1).map Stop.station = some 0 ∧ (tget (s lead).lds.stations 0).map StationFields.lead = some lead) ∧
         thas (s 1800).anc.templates (s 1800).anc.approach = true ∧ reached (s 1800).now 1001 = false ∧ reached (s 1800).now 1000 = true ∧
         ((tget (s 1800).anc.channels 0).map (fun c => c.queue.length)) = some 1 ∧
         (trainA 0 .dwelling).trip = none ∧ (findTrip (s 1800) 2).bind (fun r => r.entries.getLast?) =
           some (entryA 1 (some 300) none .clean)) := by
  decide +kernel

/-! ## A state that meets the invariants, and a step from it -/

/-- A line in service with two trains, an EMERGENCY incident and a trip, its clock set and an order of the desk waiting. -/
def sound : State :=
  let a : State := { busy with
    trt := { busy.trt with occupancy := busy.trt.occupancy.map (fun p => (p.1, trainsIn busy p.1)) }
    pending := [.raiseIncident desk0 (.val .emergency) (.val .deEnergise) [2] (.sect 2)] }
  setCategory .clockUnset false (refreshIncidents a)

theorem sound_attention : AttentionRecord sound :=
  ⟨by decide +kernel, by decide +kernel, fun f h => by
    have hs : sound.link.slot = some { highest := sound.atu.pending.head?, pending := sound.atu.pending } := by decide +kernel
    rw [hs] at h; cases h; exact ⟨rfl, rfl⟩⟩

theorem sound_signs : SignsFollow sound := by
  exact (signs_iff sound).1 ⟨by decide +kernel, by decide +kernel, by decide +kernel, by decide +kernel, by decide +kernel⟩

theorem sound_setup : SetupEmpty sound := fun h => absurd h (by decide +kernel)

theorem sound_occupancy : OccupancyTrue sound := fun x n h => by
  have : ∀ p ∈ sound.trt.occupancy, p.2 = trainsIn sound p.1 := by decide +kernel
  exact this _ (mem_of_tget h)

theorem sound_tables : TablesCanonical sound := by constructor <;> decide +kernel

theorem sound_records : RecordsFollow sound := fun n =>
  ⟨thas_of_keys (by decide +kernel) n, thas_of_keys (by decide +kernel) n, thas_of_keys (by decide +kernel) n,
    thas_of_keys (by decide +kernel) n⟩

theorem sound_capacities : WithinCapacities sound := by unfold WithinCapacities; decide +kernel
theorem sound_entries : OneEntryEach sound.inm.incidents := by unfold OneEntryEach; decide +kernel
theorem sound_store : StoreOrdered sound := by unfold StoreOrdered storeBefore; decide +kernel
theorem sound_units : UnitsBalance sound := by unfold UnitsBalance; decide +kernel
theorem sound_clock : ClockRanges sound := by unfold ClockRanges; decide +kernel
theorem sound_rights : DeskZeroFull sound := by unfold DeskZeroFull; decide +kernel
theorem sound_link : LinkLimits sound := by unfold LinkLimits; decide +kernel

/-- A step answers a next state. -/
theorem sound_step : ∃ t, step sound = .next t := ⟨_, rfl⟩

theorem witness_AttentionKept : AttentionRecord sound ∧ ∃ t, step sound = .next t := ⟨sound_attention, sound_step⟩
theorem witness_SignsKept : SignsFollow sound ∧ ∃ t, step sound = .next t := ⟨sound_signs, sound_step⟩
theorem witness_OccupancyKept : TablesCanonical sound ∧ SetupEmpty sound ∧ OccupancyTrue sound ∧ ∃ t, step sound = .next t :=
  ⟨sound_tables, sound_setup, sound_occupancy, sound_step⟩
theorem witness_TablesAndCapacitiesKept : TablesCanonical sound ∧ RecordsFollow sound ∧ WithinCapacities sound ∧
    OneEntryEach sound.inm.incidents ∧ ∃ t, step sound = .next t :=
  ⟨sound_tables, sound_records, sound_capacities, sound_entries, sound_step⟩
theorem witness_StoreAndUnitsKept : StoreOrdered sound ∧ UnitsBalance sound ∧ ∃ t, step sound = .next t := ⟨sound_store, sound_units,
  sound_step⟩
theorem witness_RangesKept : (∃ t, step sound = .next t) ∧ (ClockRanges sound ∧ DeskZeroFull sound ∧ LinkLimits sound) ∧
    AreasInRange sound :=
  ⟨sound_step, ⟨sound_clock, sound_rights, sound_link⟩, by unfold AreasInRange; decide +kernel⟩

/-- `sound` with RESTRICT in force on section 1, LIVE, train 2 RELEASED into it and train 4 waiting for it; a DE_ENERGISE of that section is the
command in front. -/
def moving : State :=
  { sound with
    pending := [.raiseIncident desk0 (.val .emergency) (.val .deEnergise) [1] (.sect 1)]
    trc := { busy.trc with sections := tmod sectionsA 1 (fun r => { r with state := .live, timeout := none }) }
    trt := { sound.trt with trains := tmod trainsA 4 (fun k => { k with causes := [.awaitGrant], mergeGap := none, deskHold := false }) }
    gate := { sound.gate with platformHolds := [], arbiters := tmap sound.gate.arbiters (fun _ a => { a with starts := [req 4 0 63 0] }) }
    inm := { sound.inm with
      incidents := tmod sound.inm.incidents 1 (fun i => { i with action := .restrict, targets := [1] })
      effective := tput sound.inm.effective 1 .restrict } }

theorem moving_step : ∃ t, step moving = .next t := ⟨_, rfl⟩

theorem moving_tables : TablesCanonical moving := by constructor <;> decide +kernel

theorem moving_sources : SourcesSound moving := by
  have h : ∀ p ∈ moving.inm.incidents, p.2.source.kind ≠ .integrity ∧ p.2.source.kind ≠ .trip := by decide +kernel
  exact fun p hp => ⟨fun e => absurd e (h p hp).1, fun e => absurd e (h p hp).2⟩

theorem moving_strongest : EffectiveStrongest moving := by
  have hin : ∀ t ∈ moving.inm.inputs.toList, t.inForce = false := by decide +kernel
  have hacts : ∀ x b, ActsOn moving x b → (b = .none ∨ (x = 1 ∧ b = .restrict)) := by
    rintro x b (⟨p, hp, -, rfl, hx⟩ | ⟨t, ht, c, hf, -⟩)
    · have : ∀ p ∈ moving.inm.incidents, p.2.action = .none ∨ (p.2.action = .restrict ∧ p.2.targets = [1]) := by decide +kernel
      rcases this p hp with h | ⟨h, hl⟩
      · exact .inl h
      · rw [hl] at hx; exact .inr ⟨List.mem_singleton.1 hx, h⟩
    · rw [hin t ht] at hf; cases hf
  have heff : ∀ p ∈ moving.inm.effective, p.2 = if p.1 = 1 then .restrict else .none := by decide +kernel
  have hone : ActsOn moving 1 .restrict := .inl (by decide +kernel)
  intro x a _ ha
  have hv : a = if x = 1 then .restrict else .none := heff _ (mem_of_tget ha)
  by_cases hx : x = 1
  · subst hx; rw [if_pos rfl] at hv; subst hv
    exact ⟨.inr hone, fun b hb => by rcases hacts 1 b hb with rfl | ⟨-, rfl⟩ <;> decide⟩
  · rw [if_neg hx] at hv; subst hv
    exact ⟨.inl rfl, fun b hb => by rcases hacts x b hb with rfl | ⟨h, -⟩; exacts [by decide, absurd h hx]⟩

theorem moving_setup : SetupEmpty moving := fun h => absurd h (by decide +kernel)

theorem moving_ahead {k : Train} (h : nextSect moving k = some 1) : WayAhead moving k 1 :=
  ⟨h, ⟨_, rfl, rfl, by decide +kernel, nofun⟩, by decide +kernel, by decide +kernel⟩

theorem moving_releases : ReleasesSound moving := by
  intro n k hk hr
  have h : ∀ p ∈ moving.trt.trains, p.2.state = .released → p.1 = 2 ∧
      p.2 = { trainA 63 .released with nextLink := some 95, grant := some { zone := 0, units := 2, givenAt := 950, startedAt := none } } := by
    decide +kernel
  obtain ⟨hn, hk'⟩ := h _ (mem_of_tget hk) hr
  simp only at hn hk'
  subst hn hk'
  exact ⟨rfl, ⟨rfl, nofun⟩, 1, _, _, moving_ahead rfl, rfl, rfl, rfl, rfl, _, List.mem_cons_self .., rfl, rfl⟩

theorem moving_requests : RequestsSound moving := by
  refine ⟨fun h => absurd h (by decide +kernel), fun z a ha => ?_⟩
  have h : ∀ p ∈ moving.gate.arbiters, p.1 = 0 ∧ p.2.starts = [req 4 0 63 0] := by decide +kernel
  obtain ⟨hz, hs⟩ := h _ (mem_of_tget ha)
  simp only at hz hs
  subst hz
  rw [hs]
  refine ⟨by decide, fun r hr => ?_⟩
  rw [List.mem_singleton.1 hr]
  exact ⟨_, 1, rfl, rfl, rfl, ⟨rfl, nofun⟩, moving_ahead rfl, rfl⟩

/-- `moving` with 7 provings owed by section 1. -/
def forcing : State := { moving with trc := { moving.trc with sections := tmod moving.trc.sections 1 (fun r => { r with owed := 7 }) } }

/-- R128: at 8 owed the release toward the section is withdrawn with a DEPART_CANCEL and the request too, and both trains hold PROVING. -/
theorem test_forced :
    let t := after (.proveNow desk0 1) forcing
    t.link.outbound = [.departCancel 2 63] ∧ (tget t.gate.arbiters 0).map Arbiter.starts = some [] ∧
      [2, 4].map (fun n => (tget t.trt.trains n).map (fun k => (k.state, k.causes.contains .proving))) =
        [some (.held, true), some (.held, true)] := by decide +kernel

theorem witness_Provings_forced : TablesCanonical forcing ∧ RequestsSound forcing ∧ (∃ r, OnSection forcing desk0 .operate 1 sectA r ∧
    r.state = .live ∧ r.owed = 7) ∧ ∃ k, tget forcing.trt.trains 2 = some k ∧ k.state = .released ∧ k.loc = .stop 63 ∧
    nextSect forcing k = some 1 := by
  refine ⟨by constructor <;> decide +kernel, ⟨fun h => absurd h (by decide +kernel), fun z a ha => ?_⟩,
    ⟨_, ⟨taken rfl, inArea0 rfl _, by decide, by decide +kernel, rfl, .inl rfl⟩, rfl, rfl⟩, _, rfl, rfl, rfl, by decide +kernel⟩
  have h : ∀ p ∈ forcing.gate.arbiters, p.1 = 0 ∧ p.2.starts = [req 4 0 63 0] := by decide +kernel
  obtain ⟨hz, hs⟩ := h _ (mem_of_tget ha)
  simp only at hz hs
  subst hz
  rw [hs]
  refine ⟨by decide, fun r hr => ?_⟩
  rw [List.mem_singleton.1 hr]
  exact ⟨_, 1, rfl, rfl, rfl, ⟨rfl, nofun⟩, ⟨by decide +kernel, ⟨_, rfl, rfl, by decide +kernel, nofun⟩, by decide +kernel,
    by decide +kernel⟩, rfl⟩

/-- `moving` with DE_ENERGISE in force on section 4, ISOLATING. -/
def cutOff : State := { moving with inm := { moving.inm with effective := tput moving.inm.effective 4 .deEnergise } }

theorem cutOff_down : DeEnergisedDown cutOff := by
  intro x r hx hr
  have he : ∀ p ∈ cutOff.inm.effective, p.2 = .deEnergise → p.1 = 4 := by decide +kernel
  have h4 : x = 4 := by
    unfold effectiveOf at hx
    cases h : tget cutOff.inm.effective x with
    | none => rw [h] at hx; cases hx
    | some a => rw [h] at hx; exact he _ (mem_of_tget h) hx
  subst h4
  have hs : tget cutOff.trc.sections 4 = some { SectRec.init with state := .isolating, timeout := some 1000 } := by decide +kernel
  rw [hs] at hr; cases hr
  exact ⟨nofun, nofun, nofun, fun _ => nofun⟩

theorem cutOff_records : RecordsFollow cutOff := fun n =>
  ⟨thas_of_keys (by decide +kernel) n, thas_of_keys (by decide +kernel) n, thas_of_keys (by decide +kernel) n,
    thas_of_keys (by decide +kernel) n⟩

theorem witness_EffectsAndReleasesKept : TablesCanonical moving ∧ (∃ t, step moving = .next t) ∧
    (SourcesSound moving ∧ EffectiveStrongest moving) ∧ (SetupEmpty moving ∧ ReleasesSound moving ∧ RequestsSound moving) ∧
    TablesCanonical cutOff ∧ (∃ t, step cutOff = .next t) ∧ RecordsFollow cutOff ∧ DeEnergisedDown cutOff ∧
    effectiveOf cutOff 4 = .deEnergise :=
  ⟨moving_tables, moving_step, ⟨moving_sources, moving_strongest⟩, ⟨moving_setup, moving_releases, moving_requests⟩,
    by constructor <;> decide +kernel, ⟨_, rfl⟩, cutOff_records, cutOff_down, by decide +kernel⟩

/-- A command in SERVICE that is none of those the rules over all commands except. -/
theorem witness_OrdersKept : (∃ t, exec (.energise desk0 0) busy = .next t) ∧ supplyOrReset (.energise desk0 0) = false ∧
    Instr.energise desk0 0 ≠ .transmitNextFrame ∧ (∀ h, Instr.energise desk0 0 ≠ .restart h) ∧ ∀ h, Instr.energise desk0 0 ≠ .resync h :=
  ⟨⟨_, rfl⟩, rfl, nofun, nofun, nofun⟩

theorem witness_StructureKept : (∃ t, exec (.defineStation desk0 0 .removal) busy = .next t) ∧
    supplyOrReset (.defineStation desk0 0 .removal) = false ∧ busy.lds.lineState = .service := ⟨⟨_, rfl⟩, rfl, rfl⟩

theorem witness_OwnersAlone : (∃ t, exec (.setTime desk0 0 0) busy = .next t) ∧ supplyOrReset (.setTime desk0 0 0) = false ∧
    (∀ l, Instr.setTime desk0 0 0 ≠ .tick l) ∧ busy.clock.state = .running ∧ (∀ h, Instr.setTime desk0 0 0 ≠ .reloadRights h) ∧
    (∀ h k p o, Instr.setTime desk0 0 0 ≠ .trainEnter h 9999 k p o) ∧ (∀ h, Instr.setTime desk0 0 0 ≠ .trainLeave h 9999) ∧
    (∀ h, Instr.setTime desk0 0 0 ≠ .restart h) ∧ thas busy.trt.trains 9999 = true :=
  ⟨⟨_, rfl⟩, rfl, nofun, rfl, nofun, nofun, nofun, nofun, by decide +kernel⟩

end Sys2Proof.Tests
end

/-! PROOFS. What power-on, RESET and RESTART leave of the line description and of what hangs on it (R16, R17). -/

namespace Sys2Proof.Machine

open Sys2Proof.Safety

variable {p : Perm} {s : State}

/-! ## The requests outstanding (R184) -/

@[simp] theorem putReply_outstanding (tag : Nat) (r : Reply) (s : State) :
    (putReply tag r s).link.outstanding = s.link.outstanding ++ [{ tag := tag, reply := r, part := 0 }] := rfl

@[simp] theorem frameTaken_outstanding (s : State) : (frameTaken s).link.outstanding = s.link.outstanding := rfl

/-! ## Trip inputs that start qualifying (R135, R157) -/

/-- No trip input qualifies at once: none has a qualification time of 0. -/
def QualTimesPositive (v : Vector TripInput 16) : Prop := ∀ t ∈ v, 0 < t.qualTime

theorem qualTimesPositive_init : QualTimesPositive Inm.init.inputs := by
  intro t ht
  obtain rfl := Vector.eq_of_mem_replicate ht
  decide

theorem qualTimesPositive_vmod {v : Vector TripInput 16} {n : Nat} {f : TripInput → TripInput} (hf : ∀ t, (f t).qualTime = t.qualTime)
    (h : QualTimesPositive v) : QualTimesPositive (vmod v n f) := by
  intro t ht
  obtain ⟨i, hi, rfl⟩ := Vector.mem_mapIdx.1 ht
  split
  · exact hf v[i] ▸ h _ (Vector.getElem_mem hi)
  · exact h _ (Vector.getElem_mem hi)

/-- An input that goes active without qualifying at once changes the bank of inputs and nothing else. -/
theorem inputActive_inputs (n : Nat) (h : QualTimesPositive s.inm.inputs) :
    ∃ v, QualTimesPositive v ∧ inputActive n s = { s with inm := { s.inm with inputs := v } } := by
  unfold inputActive
  split
  · exact ⟨_, h, rfl⟩
  · next t ht =>
    have hq : t.qualTime ≠ 0 := (h t (Vector.mem_of_getElem? ht)).ne'
    rw [if_neg hq]
    split
    · exact ⟨_, h, rfl⟩
    · refine ⟨_, ?_, rfl⟩
      exact qualTimesPositive_vmod (fun _ => rfl) h

/-- The active inputs start qualifying, each in turn: the bank of inputs changes and nothing else. -/
theorem qualifyActive_inputs (h : QualTimesPositive s.inm.inputs) :
    ∃ v, QualTimesPositive v ∧ qualifyActive s = { s with inm := { s.inm with inputs := v } } := by
  unfold qualifyActive
  generalize List.range 16 = l
  induction l generalizing s with
  | nil => exact ⟨_, h, rfl⟩
  | cons n l ih =>
    rw [List.foldl_cons]
    split
    · obtain ⟨v, hv, e⟩ := inputActive_inputs n h
      rw [e]
      exact ih hv
    · exact ih h

/-! ## Power-on and RESET (R16, log 4) -/

/-- Power-on comes to the power-on values, but for the trip inputs that start qualifying. -/
theorem exec_powerOn (s : State) :
    ∃ v, exec .powerOn s = .next { powerOnValues s with inm := { Inm.init with inputs := v } } := by
  show ∃ v, Host.Outcome.next (if s.resetPin then powerOnValues s else qualifyActive (powerOnValues s)) = _
  split
  · exact ⟨_, rfl⟩
  · obtain ⟨v, -, e⟩ := qualifyActive_inputs (s := powerOnValues s) qualTimesPositive_init
    exact ⟨v, congrArg _ e⟩

/-- RESET comes to the RESET values, with the clock and the pins' levels as they were. -/
theorem exec_resetAsserted (h : s.powered = true) : exec .resetAsserted s = .next (resetValues { s with resetPin := true }) := by
  show Host.Outcome.next (if s.powered then resetValues { s with resetPin := true } else { s with resetPin := true }) = _
  rw [if_pos h]

/-! ## RESTART (R17) -/

/-- What stays of the incident table at a RESTART is some of its entries. -/
theorem inmKept_restartIncidents (s : State) : InmKept s.inm (restartIncidents s).inm :=
  ⟨rfl, rfl, fun h => le_trans (List.length_filter_le ..) h,
    fun h => decide_eq_true ((of_decide_eq_true h).filter _), fun h => h.filter _⟩

/-- The clearing of a RESTART: the CUT orders, from a state that keeps all but platform holds and orders waiting, and the empty channels. -/
theorem restartClear_eq (s : State) : ∃ u c,
    Settled { s with gate := { s.gate with platformHolds := [] }, link := { s.link with outbound := [] } } u ∧
      restartClear s = { cutAll u with anc := { (cutAll u).anc with channels := c, announced := [] } } := by
  refine ⟨_, _, ?_, rfl⟩
  constructor
  case link => exact ⟨[], _, rfl⟩
  all_goals rfl

/-- Of what acts leave alone, the clearing of a RESTART changes the platform holds and the orders waiting only. -/
theorem settled_restartClear (s : State) :
    Settled { s with gate := { s.gate with platformHolds := [] }, link := { s.link with outbound := [] } } (restartClear s) := by
  obtain ⟨u, c, before, e⟩ := restartClear_eq s
  have cut := Settled.trans before (acts_cutAll (p := ⟨false, false⟩)).settled
  rw [e]
  exact { cut with }

theorem acts_testEach : Acts p s (testEach s) := acts_foldl (fun _ x => acts_provingTest x) _ _

/-- What RESTART recomputes once the blocks are cleared is a sequence of acts that settles. -/
theorem settles_restartAll (s : State) : Settles p (restartClear s) (restartAll s) := by
  have cleared : Acts p.anyLoud (restartClear s) (restartIncidents (restartClear s)) := acts_inm rfl (inmKept_restartIncidents _)
  have refreshed := Settles.refresh (cleared.trans (settles_recomputeEffects (List.range 24)).acts)
  unfold restartAll restartAttention
  exact refreshed.after_acts (acts_testEach.trans ((acts_setCategory _ _).trans (acts_setCategory _ _)))

theorem settled_restartAll (s : State) :
    Settled { s with gate := { s.gate with platformHolds := [] }, link := { s.link with outbound := [] } } (restartAll s) :=
  Settled.trans (settled_restartClear s) (settles_restartAll (p := ⟨false, false⟩) s).settled

theorem restartAll_lds (s : State) : (restartAll s).lds = s.lds := (settled_restartAll s).lds

theorem restartAll_outstanding (s : State) : (restartAll s).link.outstanding = s.link.outstanding := by
  obtain ⟨q, f, e⟩ := (settled_restartAll s).link
  rw [e]

/-- The items of a RESTART's reply: the line state, and the train records and incident entries removed (R17). -/
def restartItems (s : State) : List Item :=
  [u8 s.lds.lineState.code, u8 s.trt.trains.length,
    u8 (s.inm.incidents.filter (fun e => e.2.source.kind ≠ .trip)).length]

theorem restartOwner_eq (s : State) : restartOwner s = (restartAll s, .accept (restartItems s)) := rfl

theorem restartItems_frameTaken (s : State) : restartItems (frameTaken s) = restartItems s := rfl

/-- RESTART by a desk that is FULL everywhere makes no check of its own: it is accepted in every state. -/
theorem exec_restart {h : Hdr} (hr : Received s h) (hw : LineWide s h) :
    exec (.restart h) s = .next (putReply h.tag (.accept (restartItems s)) (restartAll (frameTaken s))) := by
  show Host.Outcome.next (request .restart h .lineWide restartOwner s) = _
  rw [request_taken hr (lacking_lineWide hw), restartOwner_eq, restartItems_frameTaken]

/-! ## The line description after the three resets -/

/-- Settles O6: power-on and RESET write `Lds.init` and empty tables, over which the inputs' qualifying passes without trace; RESTART is
always accepted, and its acts leave the line description. -/
theorem descriptionAfterResets : Obligations.DescriptionAfterResets := by
  unfold Obligations.DescriptionAfterResets
  intro s
  refine ⟨?_, fun h hr hw => ?_⟩
  · rintro c (rfl | ⟨rfl, hp⟩)
    · obtain ⟨v, e⟩ := exec_powerOn s
      exact ⟨_, e, rfl, rfl, rfl, rfl, rfl⟩
    · exact ⟨_, exec_resetAsserted hp, rfl, rfl, rfl, rfl, rfl⟩
  · refine ⟨_, restartItems s, exec_restart hr hw, ?_, ?_⟩
    · rw [putReply_lds, restartAll_lds, frameTaken_lds]
    · rw [putReply_outstanding, restartAll_outstanding, frameTaken_outstanding]

end Sys2Proof.Machine

/-! PROOFS. A request refused for rights, and READ_TIME (R29, R177). -/

namespace Sys2Proof.Machine

open Sys2Proof.Safety

variable {s : State}

/-! ## Requests refused for rights (R176, R177) -/

/-- The taking of a frame and the attention slot are apart: a report comes to the same before and after it. -/
theorem report_frameTaken (c : Category) (s : State) : report c (frameTaken s) = frameTaken (report c s) := by
  unfold report setCategory
  rw [frameTaken_atu]
  split
  · rfl
  · unfold setPending
    rw [frameTaken_atu]
    split <;> rfl

theorem recordRefusal_frameTaken (d : Nat) (k : ReqKind) (l : Level) (a : Option Nat) (s : State) :
    recordRefusal d k l a (frameTaken s) = frameTaken (recordRefusal d k l a s) := by
  unfold recordRefusal
  rw [← report_frameTaken]
  rfl

theorem turnedAway_received {h : Hdr} (hr : Received s h) : turnedAway s h = false := by
  obtain ⟨-, -, -, hdesk, hroom, -⟩ := hr
  exact Bool.or_eq_false_iff.2 ⟨decide_eq_false (Nat.not_lt.2 hdesk), decide_eq_false (Nat.not_le.2 hroom)⟩

theorem linkUp_received {h : Hdr} (hr : Received s h) : s.linkUp = true := by
  obtain ⟨hpow, hpin, hready, -⟩ := hr
  simp [State.linkUp, State.live, hpow, hpin, hready]

/-- A request the link receives from a desk that lacks something is recorded and refused, and its owner does not act (R177). -/
theorem request_refused {k : ReqKind} {h : Hdr} {need : Need} {owner : State → State × Reply} {level : Level} {area : Option Nat}
    (hr : Received s h) (hl : lacking s h.desk need = some (level, area)) :
    request k h need owner s = replied h (refuseRights level area) (recordRefusal h.desk k level area s) := by
  have ⟨_, _, _, _, _, hformed⟩ := hr
  unfold request
  rw [if_neg (by simp [linkUp_received hr]), if_neg (by simp [turnedAway_received hr]), if_neg (by simp [hformed]), hl]
  show putReply h.tag _ (recordRefusal h.desk k level area (frameTaken s)) = _
  rw [recordRefusal_frameTaken, putReply_frameTaken]

/-- A desk with the level in no area lacks it in ANY (R177). -/
theorem lacking_nowhere {h : Hdr} {l : Level} (hw : ¬ Somewhere s h l) : lacking s h.desk (.anyArea l) = some (l, none) := by
  have hnone : ¬ (List.range 16).any (holds s h.desk l) = true := fun ha =>
    let ⟨a, hmem, hold⟩ := List.any_eq_true.1 ha
    hw ⟨a, List.mem_range.1 hmem, of_decide_eq_true hold⟩
  exact if_neg hnone

/-! ## READ_TIME (R29) -/

/-- The clock is UNSET or RUNNING, so the items may name either state for when service time is returned as 0. -/
theorem timeItems_eq (c : Clock) :
    timeItems c = [u8 c.state.code, u32 c.timeOfDay, u8 c.dayOfWeek, u32 (if c.state = .unset then 0 else c.serviceTime),
      u8 c.serviceOrigin, u8 c.serviceDay, i16 c.trim, i8 c.slew, count32 c.runningCount] := by
  unfold timeItems
  cases c.state <;> rfl

/-- READ_TIME by a desk with MONITOR somewhere answers with the clock and only takes its frame. -/
theorem exec_readTime {h : Hdr} (hr : Received s h) (hw : Somewhere s h .monitor) :
    exec (.readTime h) s = .next (replied h (.accept (timeItems s.clock)) s) := by
  show Host.Outcome.next (request .readTime h (.anyArea .monitor) (fun s => (s, .accept (timeItems s.clock))) s) = _
  rw [request_taken hr (lacking_somewhere hw), frameTaken_clock, putReply_frameTaken]

/-- READ_TIME by a desk with MONITOR nowhere is refused with MONITOR lacking in ANY area. -/
theorem exec_readTime_refused {h : Hdr} (hr : Received s h) (hw : ¬ Somewhere s h .monitor) :
    exec (.readTime h) s = .next (replied h (refuseRights .monitor none) (recordRefusal h.desk .readTime .monitor none s)) :=
  congrArg Host.Outcome.next (request_refused hr (lacking_nowhere hw))

/-- Settles O13: the owner's part returns the state it is given, with MONITOR in some area; with none the request never reaches it. -/
theorem readsTime : Obligations.ReadsTime := by
  unfold Obligations.ReadsTime
  intro s h hr
  refine ⟨fun hw => ?_, fun hw => ⟨.monitor, none, exec_readTime_refused hr hw⟩⟩
  rw [exec_readTime hr hw, timeItems_eq]

end Sys2Proof.Machine

/-! PROOFS. Which requests fit a start arbiter (R99). -/

namespace Sys2Proof.Machine

/-! ## Fitting requests -/

variable {a : Arbiter} {r : Request} {limit : Nat}

/-- R99: within the capacity, or as a solo start. -/
theorem fits_iff : a.fits r = true ↔ a.inUse + r.units ≤ a.capacity ∨ (a.inUse = 0 ∧ 0 < a.capacity) := by
  simp only [Arbiter.fits, Bool.or_eq_true, Bool.and_eq_true, decide_eq_true_eq]

/-- A request that needs units neither stays within a capacity of 0 nor starts solo under one. -/
theorem fits_eq_false_of_no_capacity (hcap : a.capacity = 0) (hunits : 1 ≤ r.units) : a.fits r = false := by
  refine Bool.eq_false_iff.2 fun hfit => ?_
  rcases fits_iff.1 hfit with hwithin | ⟨-, hsolo⟩ <;> omega

/-- With nothing in use, a grant takes the units in use to its own. -/
theorem add_inUse_of_idle {g : Grant} (hidle : a.inUse = 0) : (a.add g).inUse = g.units := by
  show a.inUse + g.units = g.units
  rw [hidle, Nat.zero_add]

/-! ## What a round of selection can choose -/

/-- R100: a chosen request stands in the start list and fits, urgent or not. -/
theorem mem_and_fits_of_choose (h : a.choose limit = some r) : r ∈ a.starts ∧ a.fits r = true := by
  unfold Arbiter.choose at h
  split at h
  case h_1 urgent hurgent =>
    obtain ⟨hfit, hchosen⟩ := Option.ite_none_right_eq_some.1 h
    cases hchosen
    exact ⟨List.mem_of_find?_eq_some hurgent, hfit⟩
  case h_2 =>
    split at h
    case h_1 => cases h
    case h_2 oldest holdest =>
      have oldest_fits : oldest ∈ a.starts ∧ a.fits oldest = true :=
        ⟨List.mem_of_find?_eq_some holdest, List.find?_some holdest⟩
      split at h
      case isTrue =>
        split at h
        case h_1 other hother =>
          cases h
          have hsat := List.find?_some hother
          exact ⟨List.mem_of_find?_eq_some hother, (Bool.and_eq_true_iff.1 hsat).1⟩
        case h_2 => cases h; exact oldest_fits
      case isFalse => cases h; exact oldest_fits

/-- A round of selection over requests of which none fits chooses none: they wait. -/
theorem choose_eq_none_of_none_fits (h : ∀ q ∈ a.starts, a.fits q = false) : a.choose limit = none := by
  refine Option.eq_none_iff_forall_ne_some.2 fun q hq => ?_
  obtain ⟨hmem, hfit⟩ := mem_and_fits_of_choose hq
  exact Bool.false_ne_true ((h q hmem).symm.trans hfit)

/-- Settles O33: under a capacity of 0 no request of the start list fits, so a round of selection has none to choose. -/
theorem fits : Obligations.Fits := by
  unfold Obligations.Fits
  intro a r
  refine ⟨fun hcap hunits limit => ?_, fits_iff, fits_eq_false_of_no_capacity, fun hidle _ => add_inUse_of_idle hidle⟩
  exact choose_eq_none_of_none_fits fun q hq => fits_eq_false_of_no_capacity hcap (hunits q hq)

end Sys2Proof.Machine

/-! PROOFS. A line-wide request refused, and RELOAD_RIGHTS (R175, R177). -/

namespace Sys2Proof.Machine

open Sys2Proof.Safety

variable {s : State}

/-! ## Line-wide requests refused for rights (R176, R177) -/

theorem holds_full_iff {d a : Nat} : holds s d .full a = true ↔ levelIn s.drt.inForce d a = .full := by
  refine ⟨fun hold => ?_, holds_of_full .full⟩
  have full_le : Level.code .full ≤ Level.code (levelIn s.drt.inForce d a) := of_decide_eq_true hold
  cases hl : levelIn s.drt.inForce d a with
  | full => rfl
  | none | monitor | operate => rw [hl] at full_le; exact absurd full_le (by decide)

theorem firstBelowFull_eq_none_iff {h : Hdr} : firstBelowFull s h.desk = none ↔ LineWide s h := by
  refine ⟨fun none_below a ha => ?_, firstBelowFull_none⟩
  have not_below := List.find?_eq_none.1 none_below a (List.mem_range.2 ha)
  exact holds_full_iff.1 (by simpa using not_below)

/-- A desk that is not FULL everywhere lacks FULL in some area (R177). -/
theorem lacking_of_not_lineWide {h : Hdr} (hw : ¬ LineWide s h) : ∃ a, lacking s h.desk .lineWide = some (.full, some a) := by
  obtain ⟨a, lowest⟩ := Option.ne_none_iff_exists'.1 (mt firstBelowFull_eq_none_iff.1 hw)
  exact ⟨a, congrArg (Option.map _) lowest⟩

/-! ## The pairs of desk and area (R174, R175) -/

/-- The desk and area pairs of a rights table, in its order. -/
def rightsPairs : List (Nat × Nat) := List.range 8 ×ˢ List.range 16

theorem row_levels (t : RightsTable) {d : Nat} (hd : d < 8) : t[d].toList = (List.range 16).map (levelIn t d) :=
  List.ext_getElem (by simp) fun a ha _ => by
    have hlt : a < 16 := by simpa using ha
    simp [levelIn, hd, hlt]

theorem table_rows (t : RightsTable) : t.toList.map Vector.toList = (List.range 8).map (fun d => (List.range 16).map (levelIn t d)) :=
  List.ext_getElem (by simp) fun d hd _ => by
    have hlt : d < 8 := by simpa using hd
    simpa using row_levels t hlt

/-- All levels of a table are the levels of its pairs. -/
theorem allLevels_eq (t : RightsTable) : allLevels t = rightsPairs.map (fun p => levelIn t p.1 p.2) := by
  unfold allLevels rightsPairs
  rw [List.flatMap_def, table_rows, ← List.flatMap_def]
  show _ = ((List.range 8).flatMap (fun d => (List.range 16).map (Prod.mk d))).map _
  simp only [List.map_flatMap, List.map_map, Function.comp_def]

/-- A property of pairs picks as many as it picks areas, desk by desk. -/
theorem length_filter_rightsPairs (p : Nat × Nat → Bool) :
    (rightsPairs.filter p).length = ((List.range 8).flatMap (fun d => (List.range 16).filter (fun a => p (d, a)))).length := by
  show (((List.range 8).flatMap (fun d => (List.range 16).map (Prod.mk d))).filter p).length = _
  simp only [List.filter_flatMap, List.length_flatMap, List.filter_map, List.length_map, Function.comp_def]

/-- The count of changes is that of the areas, desk by desk, where the two levels differ. -/
theorem changedLevels_eq (a b : RightsTable) :
    changedLevels a b = ((List.range 8).flatMap (fun d => (List.range 16).filter (fun n => levelIn a d n ≠ levelIn b d n))).length := by
  unfold changedLevels
  rw [allLevels_eq, allLevels_eq, List.zip_map', List.filter_map, List.length_map]
  exact length_filter_rightsPairs _

/-! ## RELOAD_RIGHTS (R175) -/

theorem reloadRightsOwner_frameTaken (s : State) :
    reloadRightsOwner (frameTaken s) = (frameTaken (reloadRightsOwner s).1, (reloadRightsOwner s).2) := rfl

/-- RELOAD_RIGHTS by a desk that is FULL everywhere in the table still in force is accepted in every line state. -/
theorem exec_reloadRights {h : Hdr} (hr : Received s h) (hw : LineWide s h) :
    exec (.reloadRights h) s =
      .next (replied h (.accept [u8 (changedLevels s.drt.inForce s.drt.pending)])
        { s with drt := { s.drt with inForce := s.drt.pending } }) := by
  show Host.Outcome.next (request .reloadRights h .lineWide reloadRightsOwner s) = _
  rw [request_taken hr (lacking_lineWide hw), reloadRightsOwner_frameTaken, putReply_frameTaken]
  rfl

/-- Settles O44: the pending table is copied whole, and the levels compared in table order are those of the pairs, desk by desk. -/
theorem reloadsRights : Obligations.ReloadsRights := by
  unfold Obligations.ReloadsRights
  intro s h hr
  refine ⟨fun hw n hn => ?_, fun hw => ?_⟩
  · rw [exec_reloadRights hr hw, changedLevels_eq, hn]
  · obtain ⟨a, hl⟩ := lacking_of_not_lineWide hw
    exact ⟨.full, some a, congrArg Host.Outcome.next (request_refused hr hl)⟩

end Sys2Proof.Machine
